-- ==== Sys2Proof/Word.lean ====
section
/-! DEFINITION. The machine's words (spec/00_scope.md R4 to R7): every value is unsigned, every width is fixed. -/

namespace Sys2Proof

/-- An 8-bit value: a general register, a timer, a memory cell (R20, R25, R27). -/
abbrev Byte := BitVec 8

/-- A 16-bit value: an instruction word, `I`, `PC`, a stack element (R22, R23, R24, R70). -/
abbrev Word := BitVec 16

/-- A 12-bit address: the field `nnn` (R71), or an effective address in 0 to 4095 (R51). -/
abbrev Addr := BitVec 12

/-- A register index, 0 to 15: a 4-bit field once decoded, so that no other index can be formed (R20). -/
abbrev RegIdx := Fin 16

/-- A key code, 0x0 to 0xF (R33: `key_event` is 4 bits wide). -/
abbrev KeyCode := BitVec 4

/-- A display column, 0 to 63 (R28). -/
abbrev Column := Fin 64

/-- A display row, 0 to 31 (R28). -/
abbrev Row := Fin 32

/-- The register `VF`, index 15 (R6, R21). -/
abbrev VF : RegIdx := 15

/-- `Time` of R30 and R33: an exact rational number of milliseconds.
The port's law that it is not negative is the host's duty (R218), so the type does not carry it. -/
abbrev Time := Rat

/-- `zext_16` of a byte (R6). -/
def zextByte (v : Byte) : Word := v.setWidth 16

/-- `zext_16(nnn)` (R73). -/
def zextAddr (nnn : Addr) : Word := nnn.setWidth 16

/-- `zext_8(k)` of a key code (R102). -/
def zextKey (k : KeyCode) : Byte := k.setWidth 8

end Sys2Proof
end

