-- ==== Sys2Proof/Config.lean ====
section
/-! DEFINITION. What an implementation fixes (spec/00_scope.md R4, the rows marked "decision"), the input ports of one
step (spec/10_state.md R33), and the free value that stands for the inputs a state does not list.
The default of every parameter is `Machine.parameters` (Machine/Parameters.lean). -/

namespace Sys2Proof

/-- `FLAG_WRITE_ORDER` (R4, D14): the order of the two writes of a flag-producing ALU instruction. -/
inductive FlagOrder where
  | flagThenResult
  | resultThenFlag
  deriving DecidableEq, Repr

/-- `ADDR_POLICY` (R4, D24): what happens to a computed address above 4095. -/
inductive AddrPolicy where
  | mask
  | fault
  deriving DecidableEq, Repr

/-- The parameters of R4 that the spec marks "decision".
The rows marked "source" are the types of Word.lean and Machine/State.lean. -/
structure Config where
  /-- `TIMER_PERIOD`, in milliseconds. -/
  timerPeriod : Time
  /-- `STACK_DEPTH`; `none` is unbounded. -/
  stackDepth : Option Nat
  /-- `FONT_BASE`. -/
  fontBase : Word
  /-- `FONT`: 16 glyphs of 5 bytes, digit 0 first. -/
  font : List Byte
  /-- `T0`; `none` is the reset input `t_reset`. -/
  t0 : Option Time
  /-- `DRW_CLEARS_VF`. -/
  drwClearsVf : Bool
  /-- `FLAG_WRITE_ORDER`. -/
  flagOrder : FlagOrder
  /-- `ADDR_POLICY`. -/
  addrPolicy : AddrPolicy
  /-- `STRICT_LOW_NIBBLE`. -/
  strictLowNibble : Bool
  deriving DecidableEq, Repr

/-- The values the spec admits: a finite `STACK_DEPTH` is at least 16 (R203), the font table is 80 bytes inside the
region 0x000 to 0x1FF (R58, R59), the timer period is positive. -/
def Config.admissible (c : Config) : Bool :=
  (match c.stackDepth with
    | none => true
    | some n => decide (16 ≤ n))
  && decide (c.font.length = 80)
  && decide (c.fontBase.toNat + 80 ≤ 0x200)
  && decide (0 < c.timerPeriod)

/-- The four inputs of one step (R33), sampled once at its start (R113). -/
structure StepInput where
  /-- Bit `k` is 1 iff key `k` is pressed. -/
  keys : BitVec 16
  /-- A key just pressed, if any. -/
  keyEvent : Option KeyCode
  /-- The random byte: an unconstrained draw (R217). -/
  rnd : Byte
  /-- The host's clock reading. -/
  now : Time
  deriving DecidableEq, Repr, Inhabited

/-- FREE VALUE: the inputs of a step for which the state lists none, by the number of the step.
It has no body, so no proof can see any of the four values: the host may choose them freely (R246).
Log entry 2. -/
opaque Config.freeInput : Nat → StepInput

end Sys2Proof
end

