-- ==== Sys2Proof/Machine/Parameters.lean ====
section
/-! DEFINITION. The parameters of this machine: the default of every row of spec/00_scope.md R4 marked "decision".
They stand here, and not in Config.lean, so that a different reading of the repository is one changed line. -/

namespace Sys2Proof.Machine

/-- `FONT` (spec/20_memory.md R59; the bytes are from general knowledge, D10): glyph `d` is bytes `5*d` to `5*d + 4`. -/
def fontTable : List Byte :=
  [0xF0, 0x90, 0x90, 0x90, 0xF0,  0x20, 0x60, 0x20, 0x20, 0x70,
   0xF0, 0x10, 0xF0, 0x80, 0xF0,  0xF0, 0x10, 0xF0, 0x10, 0xF0]
  ++ [0x90, 0x90, 0xF0, 0x10, 0x10,  0xF0, 0x80, 0xF0, 0x10, 0xF0,
      0xF0, 0x80, 0xF0, 0x90, 0xF0,  0xF0, 0x10, 0x20, 0x40, 0x40]
  ++ [0xF0, 0x90, 0xF0, 0x90, 0xF0,  0xF0, 0x90, 0xF0, 0x10, 0xF0,
      0xF0, 0x90, 0xF0, 0x90, 0x90,  0xE0, 0x90, 0xE0, 0x90, 0xE0]
  ++ [0xF0, 0x80, 0x80, 0x80, 0xF0,  0xE0, 0x90, 0x90, 0x90, 0xE0,
      0xF0, 0x80, 0xF0, 0x80, 0xF0,  0xF0, 0x80, 0xF0, 0x80, 0x80]

/-- The default configuration (R4; decisions D2, D3, D9, D10, D12, D14, D15, D24, D26). Log entry 1. -/
def parameters : Config where
  timerPeriod := 50 / 3
  stackDepth := none
  fontBase := 0x000
  font := fontTable
  t0 := none
  drwClearsVf := true
  flagOrder := .flagThenResult
  addrPolicy := .mask
  strictLowNibble := true

end Sys2Proof.Machine
end

