-- ==== Sys2Proof/Machine/Fields.lean ====
section
/-! DEFINITION. The fields of an instruction word (spec/30_encoding.md R71) and the words that no row of the opcode map
matches (R81). -/

namespace Sys2Proof.Machine

/-- `op = w[15:12]`. -/
def opField (w : Word) : BitVec 4 := w.extractLsb' 12 4

/-- `x = w[11:8]`. -/
def xField (w : Word) : RegIdx := (w.extractLsb' 8 4).toFin

/-- `y = w[7:4]`. -/
def yField (w : Word) : RegIdx := (w.extractLsb' 4 4).toFin

/-- `n = w[3:0]`. -/
def nField (w : Word) : BitVec 4 := w.extractLsb' 0 4

/-- `kk = w[7:0]`. -/
def kkField (w : Word) : Byte := w.extractLsb' 0 8

/-- `nnn = w[11:0]`. -/
def nnnField (w : Word) : Addr := w.extractLsb' 0 12

/-- The words no row of R75 matches (R81, R77 to R80): families 5 and 9 with a non-zero bottom nibble (under
`STRICT_LOW_NIBBLE`), family 8 with the bottom nibble 8 to D or F, families E and F with another bottom byte. -/
def isUnmatched (c : Config) (w : Word) : Bool :=
  match opField w with
  | 0x5#4 => c.strictLowNibble && nField w != 0
  | 0x8#4 => decide (8 ≤ (nField w).toNat) && nField w != 0xE#4
  | 0x9#4 => c.strictLowNibble && nField w != 0
  | 0xE#4 => !decide (kkField w ∈ [0x9E#8, 0xA1#8])
  | 0xF#4 => !decide (kkField w ∈ [0x07#8, 0x0A#8, 0x15#8, 0x18#8, 0x1E#8, 0x29#8, 0x33#8, 0x55#8, 0x65#8])
  | _ => false

end Sys2Proof.Machine
end

