-- ==== Sys2Proof/Syntax.lean ====
section
/-! DEFINITION. The instructions: one constructor per row of spec/opcode_table.json, in the table's order
(spec/30_encoding.md R75), each with the fields of its format as payload (R72, R86). -/

namespace Sys2Proof

/-- A decoded instruction. `x`, `y` are register indexes, `kk` an immediate byte, `nnn` a 12-bit address, `n` a row
count (R71). -/
inductive Instr where
  /-- 00E0 `CLS` (R170). -/
  | cls
  /-- 00EE `RET` (R122). -/
  | ret
  /-- 0nnn, any other: `SYS nnn` (R120). -/
  | sys (nnn : Addr)
  /-- 1nnn `JP nnn` (R123). -/
  | jp (nnn : Addr)
  /-- 2nnn `CALL nnn` (R124). -/
  | call (nnn : Addr)
  /-- 3xkk `SE Vx, kk` (R130). -/
  | seImm (x : RegIdx) (kk : Byte)
  /-- 4xkk `SNE Vx, kk` (R131). -/
  | sneImm (x : RegIdx) (kk : Byte)
  /-- 5xy0 `SE Vx, Vy` (R132). -/
  | seReg (x y : RegIdx)
  /-- 6xkk `LD Vx, kk` (R141). -/
  | ldImm (x : RegIdx) (kk : Byte)
  /-- 7xkk `ADD Vx, kk` (R142). -/
  | addImm (x : RegIdx) (kk : Byte)
  /-- 8xy0 `LD Vx, Vy` (R143). -/
  | ldReg (x y : RegIdx)
  /-- 8xy1 `OR Vx, Vy` (R144). -/
  | orReg (x y : RegIdx)
  /-- 8xy2 `AND Vx, Vy` (R145). -/
  | andReg (x y : RegIdx)
  /-- 8xy3 `XOR Vx, Vy` (R146). -/
  | xorReg (x y : RegIdx)
  /-- 8xy4 `ADD Vx, Vy` (R147). -/
  | addReg (x y : RegIdx)
  /-- 8xy5 `SUB Vx, Vy` (R148). -/
  | subReg (x y : RegIdx)
  /-- 8xy6 `SHR Vx`; the `y` field is decoded and ignored (R149). -/
  | shr (x y : RegIdx)
  /-- 8xy7 `SUBN Vx, Vy` (R150). -/
  | subnReg (x y : RegIdx)
  /-- 8xyE `SHL Vx`; the `y` field is decoded and ignored (R151). -/
  | shl (x y : RegIdx)
  /-- 9xy0 `SNE Vx, Vy` (R133). -/
  | sneReg (x y : RegIdx)
  /-- Annn `LD I, nnn` (R160). -/
  | ldI (nnn : Addr)
  /-- Bnnn `JPV0 nnn` (R125). -/
  | jpV0 (nnn : Addr)
  /-- Cxkk `RND Vx, kk` (R152). -/
  | rnd (x : RegIdx) (kk : Byte)
  /-- Dxyn `DRW Vx, Vy, n` (R171). -/
  | drw (x y : RegIdx) (n : BitVec 4)
  /-- Ex9E `SKP Vx` (R134). -/
  | skp (x : RegIdx)
  /-- ExA1 `SKNP Vx` (R135). -/
  | sknp (x : RegIdx)
  /-- Fx07 `LD Vx, DT` (R180). -/
  | ldVxDt (x : RegIdx)
  /-- Fx0A `LD Vx, K` (R181). -/
  | ldVxK (x : RegIdx)
  /-- Fx15 `LD DT, Vx` (R182). -/
  | ldDtVx (x : RegIdx)
  /-- Fx18 `LD ST, Vx` (R183). -/
  | ldStVx (x : RegIdx)
  /-- Fx1E `ADD I, Vx` (R161). -/
  | addI (x : RegIdx)
  /-- Fx29 `LD F, Vx` (R162). -/
  | ldF (x : RegIdx)
  /-- Fx33 `LD B, Vx` (R163). -/
  | ldB (x : RegIdx)
  /-- Fx55 `LD [I], Vx` (R164). -/
  | storeRegs (x : RegIdx)
  /-- Fx65 `LD Vx, [I]` (R165). -/
  | loadRegs (x : RegIdx)
  /-- The fallback no-op (R121): a word that no row matches, kept whole so that encoding gives it back (log entry 7). -/
  | nop (w : Word)
  deriving DecidableEq, Repr

end Sys2Proof
end

