-- ==== Sys2Proof/Decode.lean ====
section
/-! DEFINITION. The Instruction Decoder (spec/30_encoding.md): a pure total function of the 16-bit word (R74, R83, R86),
the encoder written from the same formats (R72), and the opcode map as a table of masks and patterns (R75). -/

namespace Sys2Proof

open Machine

/-- Family 8, selected by the bottom nibble (R77). -/
def decodeFamily8 (w : Word) : Instr :=
  match nField w with
  | 0x0#4 => .ldReg (xField w) (yField w)
  | 0x1#4 => .orReg (xField w) (yField w)
  | 0x2#4 => .andReg (xField w) (yField w)
  | 0x3#4 => .xorReg (xField w) (yField w)
  | 0x4#4 => .addReg (xField w) (yField w)
  | 0x5#4 => .subReg (xField w) (yField w)
  | 0x6#4 => .shr (xField w) (yField w)
  | 0x7#4 => .subnReg (xField w) (yField w)
  | 0xE#4 => .shl (xField w) (yField w)
  | _ => .nop w

/-- Family F, selected by the bottom byte (R79). -/
def decodeFamilyF (w : Word) : Instr :=
  match kkField w with
  | 0x07#8 => .ldVxDt (xField w)
  | 0x0A#8 => .ldVxK (xField w)
  | 0x15#8 => .ldDtVx (xField w)
  | 0x18#8 => .ldStVx (xField w)
  | 0x1E#8 => .addI (xField w)
  | 0x29#8 => .ldF (xField w)
  | 0x33#8 => .ldB (xField w)
  | 0x55#8 => .storeRegs (xField w)
  | 0x65#8 => .loadRegs (xField w)
  | _ => .nop w

/-- `decode(w)` under the parameters `c` (R74 to R81). Only `STRICT_LOW_NIBBLE` matters here (R80). -/
def decodeIn (c : Config) (w : Word) : Instr :=
  match opField w with
  | 0x0#4 => if w = 0x00E0#16 then .cls else if w = 0x00EE#16 then .ret else .sys (nnnField w)
  | 0x1#4 => .jp (nnnField w)
  | 0x2#4 => .call (nnnField w)
  | 0x3#4 => .seImm (xField w) (kkField w)
  | 0x4#4 => .sneImm (xField w) (kkField w)
  | 0x5#4 => if c.strictLowNibble && nField w != 0 then .nop w else .seReg (xField w) (yField w)
  | 0x6#4 => .ldImm (xField w) (kkField w)
  | 0x7#4 => .addImm (xField w) (kkField w)
  | 0x8#4 => decodeFamily8 w
  | 0x9#4 => if c.strictLowNibble && nField w != 0 then .nop w else .sneReg (xField w) (yField w)
  | 0xA#4 => .ldI (nnnField w)
  | 0xB#4 => .jpV0 (nnnField w)
  | 0xC#4 => .rnd (xField w) (kkField w)
  | 0xD#4 => .drw (xField w) (yField w) (nField w)
  | 0xE#4 =>
    match kkField w with
    | 0x9E#8 => .skp (xField w)
    | 0xA1#8 => .sknp (xField w)
    | _ => .nop w
  | _ => decodeFamilyF w

/-- `decode(w)` of this machine. -/
def decode (w : Word) : Instr := decodeIn parameters w

/-- Why the decoder refuses a list of bytes. No word is illegal (R81), so this is the only reason. -/
inductive DecodeError where
  /-- Fewer than the two bytes of an instruction (R70). -/
  | truncated
  deriving DecidableEq, Repr

/-- The instruction at the front of a list of bytes, high byte first (R53, R70), and the bytes after it. -/
def decodeBytes : List Byte → Except DecodeError (Instr × List Byte)
  | hi :: lo :: rest => .ok (decode (hi ++ lo), rest)
  | _ => .error .truncated

/-- The two bytes of an instruction word as memory holds them: high byte at the lower address (R53). -/
def wordBytes (w : Word) : List Byte := [w.extractLsb' 8 8, w.extractLsb' 0 8]

/-- The decoder on a word numbered as spec/opcode_table.json numbers it; bits above `nbits` are 0.
No instruction is longer than 16 bits (R70), so a longer row is refused. -/
def decodeTableWord (nbits w : Nat) : Option Instr :=
  if nbits ≤ 16 then
    match decodeBytes (wordBytes (BitVec.ofNat 16 (w % 2 ^ nbits))) with
    | .ok (i, _) => some i
    | .error _ => none
  else none

/-! ## Encoding -/

/-- Format `FA` (R72): `op`, `nnn`. -/
def formatFA (op : BitVec 4) (nnn : Addr) : Word := op ++ nnn

/-- Format `FI` (R72): `op`, `x`, `kk`. -/
def formatFI (op : BitVec 4) (x : RegIdx) (kk : Byte) : Word := op ++ (BitVec.ofFin x : BitVec 4) ++ kk

/-- Format `FR` (R72): `op`, `x`, `y`, `n`. -/
def formatFR (op : BitVec 4) (x y : RegIdx) (n : BitVec 4) : Word :=
  op ++ (BitVec.ofFin x : BitVec 4) ++ (BitVec.ofFin y : BitVec 4) ++ n

/-- Format `FX` (R72): `op`, `x`, a fixed selector byte. -/
def formatFX (op : BitVec 4) (x : RegIdx) (sel : Byte) : Word := op ++ (BitVec.ofFin x : BitVec 4) ++ sel

/-- The word of an instruction (R72, R75). -/
def encode : Instr → Word
  | .cls => 0x00E0
  | .ret => 0x00EE
  | .sys nnn => formatFA 0x0 nnn
  | .jp nnn => formatFA 0x1 nnn
  | .call nnn => formatFA 0x2 nnn
  | .seImm x kk => formatFI 0x3 x kk
  | .sneImm x kk => formatFI 0x4 x kk
  | .seReg x y => formatFR 0x5 x y 0x0
  | .ldImm x kk => formatFI 0x6 x kk
  | .addImm x kk => formatFI 0x7 x kk
  | .ldReg x y => formatFR 0x8 x y 0x0
  | .orReg x y => formatFR 0x8 x y 0x1
  | .andReg x y => formatFR 0x8 x y 0x2
  | .xorReg x y => formatFR 0x8 x y 0x3
  | .addReg x y => formatFR 0x8 x y 0x4
  | .subReg x y => formatFR 0x8 x y 0x5
  | .shr x y => formatFR 0x8 x y 0x6
  | .subnReg x y => formatFR 0x8 x y 0x7
  | .shl x y => formatFR 0x8 x y 0xE
  | .sneReg x y => formatFR 0x9 x y 0x0
  | .ldI nnn => formatFA 0xA nnn
  | .jpV0 nnn => formatFA 0xB nnn
  | .rnd x kk => formatFI 0xC x kk
  | .drw x y n => formatFR 0xD x y n
  | .skp x => formatFX 0xE x 0x9E
  | .sknp x => formatFX 0xE x 0xA1
  | .ldVxDt x => formatFX 0xF x 0x07
  | .ldVxK x => formatFX 0xF x 0x0A
  | .ldDtVx x => formatFX 0xF x 0x15
  | .ldStVx x => formatFX 0xF x 0x18
  | .addI x => formatFX 0xF x 0x1E
  | .ldF x => formatFX 0xF x 0x29
  | .ldB x => formatFX 0xF x 0x33
  | .storeRegs x => formatFX 0xF x 0x55
  | .loadRegs x => formatFX 0xF x 0x65
  | .nop w => w

/-! ## The opcode map as a table -/

/-- The rows of R75 in order, as (mask, match); the last is the fallback. -/
def opcodeRows : List (Word × Word) :=
  [(0xFFFF, 0x00E0), (0xFFFF, 0x00EE), (0xF000, 0x0000), (0xF000, 0x1000), (0xF000, 0x2000), (0xF000, 0x3000),
   (0xF000, 0x4000), (0xF00F, 0x5000), (0xF000, 0x6000), (0xF000, 0x7000), (0xF00F, 0x8000), (0xF00F, 0x8001)]
  ++ [(0xF00F, 0x8002), (0xF00F, 0x8003), (0xF00F, 0x8004), (0xF00F, 0x8005), (0xF00F, 0x8006), (0xF00F, 0x8007),
      (0xF00F, 0x800E), (0xF00F, 0x9000), (0xF000, 0xA000), (0xF000, 0xB000), (0xF000, 0xC000), (0xF000, 0xD000)]
  ++ [(0xF0FF, 0xE09E), (0xF0FF, 0xE0A1), (0xF0FF, 0xF007), (0xF0FF, 0xF00A), (0xF0FF, 0xF015), (0xF0FF, 0xF018),
      (0xF0FF, 0xF01E), (0xF0FF, 0xF029), (0xF0FF, 0xF033), (0xF0FF, 0xF055), (0xF0FF, 0xF065), (0x0000, 0x0000)]

/-- `w & mask = match` (R75). -/
def rowMatches (w : Word) (r : Word × Word) : Bool := w &&& r.1 == r.2

/-- The number, from 0, of the first row that matches (R74). -/
def firstRow (w : Word) : Nat := opcodeRows.findIdx (rowMatches w)

/-- The number, from 0, of an instruction's row in R75. -/
def Instr.row : Instr → Nat
  | .cls => 0
  | .ret => 1
  | .sys _ => 2
  | .jp _ => 3
  | .call _ => 4
  | .seImm _ _ => 5
  | .sneImm _ _ => 6
  | .seReg _ _ => 7
  | .ldImm _ _ => 8
  | .addImm _ _ => 9
  | .ldReg _ _ => 10
  | .orReg _ _ => 11
  | .andReg _ _ => 12
  | .xorReg _ _ => 13
  | .addReg _ _ => 14
  | .subReg _ _ => 15
  | .shr _ _ => 16
  | .subnReg _ _ => 17
  | .shl _ _ => 18
  | .sneReg _ _ => 19
  | .ldI _ => 20
  | .jpV0 _ => 21
  | .rnd _ _ => 22
  | .drw _ _ _ => 23
  | .skp _ => 24
  | .sknp _ => 25
  | .ldVxDt _ => 26
  | .ldVxK _ => 27
  | .ldDtVx _ => 28
  | .ldStVx _ => 29
  | .addI _ => 30
  | .ldF _ => 31
  | .ldB _ => 32
  | .storeRegs _ => 33
  | .loadRegs _ => 34
  | .nop _ => 35

end Sys2Proof
end

