-- ==== Sys2Proof/Machine/State.lean ====
section
/-! DEFINITION. The architectural state (spec/10_state.md R20 to R32), as plain data, with the three fields of the model's
own that carry the ports of a step (R33, R34), the reasons a step can stop, and the state after reset. -/

namespace Sys2Proof.Machine

/-- The faults of spec/60_exceptions.md R201. The document has none; the spec adds these three. -/
inductive Fault where
  /-- Raised by `RET` on an empty stack (R202). Safe: the machine stops where the repository's behaviour is unknown. -/
  | stackUnderflow
  /-- Raised by `CALL` on a full stack, only under a finite `STACK_DEPTH` (R203).
  Safe, and impossible under the default parameters. -/
  | stackOverflow
  /-- Raised by the fetch and by every instruction that accesses `Mem`, only under `ADDR_POLICY = fault` (R51).
  Safe, and impossible under the default parameters. -/
  | addressFault
  deriving DecidableEq, Repr

/-- What the model gives no meaning. -/
inductive Refusal where
  /-- Raised by an arm of `exec` whose instruction has no meaning yet; no arm does now. Safe. -/
  | notModelled (mnemonic : String)
  /-- Raised by `construct` on a ROM of more than 3584 bytes, to which the spec gives no meaning (R243, U1). Safe. -/
  | romTooLong
  deriving DecidableEq, Repr

/-- The 64 by 32 grid of one-bit cells (R28): 32 rows of 64 columns, row 0 first, column 0 first in a row. -/
abbrev Display := Vector (Vector Bool 64) 32

/-- `Mem` (R27, R50): the cells whose byte is not the one an unlisted address reads as (`Memory.background`),
addresses strictly rising. -/
abbrev Memory := List Host.Cell

/-- The outputs of one step (R34). -/
structure Snapshot where
  /-- The full display grid. -/
  display : Display
  /-- The executed instruction was `CLS` or `DRW` (R110). -/
  displayChanged : Bool
  /-- `ST != 0` (R111). -/
  soundOn : Bool
  /-- The step returned early because the machine is stalled (R112). -/
  waiting : Bool
  deriving DecidableEq, Repr

/-- The state of the machine. -/
structure State where
  /-- `V[0]` to `V[15]` (R20); `V[15]` is `VF` (R21). -/
  v : Vector Byte 16
  /-- `I` (R22). -/
  index : Word
  /-- `PC` (R23). -/
  pc : Word
  /-- `stack` (R24): the last element is the top. -/
  stack : List Word
  /-- `DT` (R25). -/
  dt : Byte
  /-- `ST` (R26). -/
  st : Byte
  /-- `Mem` (R27). -/
  mem : Memory
  /-- `Disp` (R28). -/
  disp : Display
  /-- `waiting_for_input` (R29). -/
  waiting : Option RegIdx
  /-- `last_timer_tick` (R30). -/
  lastTick : Time
  /-- The spec's fault latch `fault` (R31, R204). -/
  fault : Option Fault
  /-- THE MODEL'S OWN: the inputs (R33) of the coming steps, the next step's first.
  When the list is empty a step's inputs are the free value `Config.freeInput` (log entry 2). -/
  inputs : List StepInput
  /-- THE MODEL'S OWN: the number of steps taken, which the free value is applied to (log entry 2). -/
  stepNo : Nat
  /-- THE MODEL'S OWN: the outputs (R34) of the last step, none before the first step (log entry 3). -/
  snapshot : Option Snapshot
  deriving DecidableEq, Repr

/-- What executing an instruction, or a step, answers. -/
abbrev Result := Host.Outcome State Fault Refusal

/-- The state after reset with the empty ROM and `t_reset = 0` (R32, R240 to R243; log entries 4 and 5).
The tick stamp is `T0` (R4): the parameter where it names a time, else `t_reset`.
`Mem` lists nothing: it reads as the font table and zeros. -/
def State.reset : State where
  v := Vector.replicate 16 0
  index := 0
  pc := 0x200
  stack := []
  dt := 0
  st := 0
  mem := []
  disp := Vector.replicate 32 (Vector.replicate 64 false)
  waiting := none
  lastTick := parameters.t0.getD 0
  fault := none
  inputs := []
  stepNo := 0
  snapshot := none

end Sys2Proof.Machine
end

