-- ==== Sys2Proof/Machine/Ops.lean ====
section
/-! DEFINITION. The named operations over registers, memory, display and stack, and raising a fault.
An operation that depends on a parameter of spec/00_scope.md R4 takes the configuration `c` as an argument; the
instructions call it with `parameters`. -/

namespace Sys2Proof.Machine

/-! ## Loops -/

/-- `for k = 0, 1, ..., count - 1: f k`. -/
def forUpTo {α : Type} : Nat → (Nat → α → α) → α → α
  | 0, _, a => a
  | k + 1, f, a => f k (forUpTo k f a)

/-! ## Registers -/

/-- `V[j]` (R6, R20). -/
def State.reg (s : State) (j : RegIdx) : Byte := s.v[j]

/-- `V[j] <- b` (R6, R20). No register is hardwired. -/
def State.setReg (s : State) (j : RegIdx) (b : Byte) : State := { s with v := s.v.set j b }

/-- `I <- a` (R22). -/
def State.setIndex (s : State) (a : Word) : State := { s with index := a }

/-- `PC <- a` (R23). -/
def State.setPc (s : State) (a : Word) : State := { s with pc := a }

/-- `DT <- b` (R25). -/
def State.setDt (s : State) (b : Byte) : State := { s with dt := b }

/-- `ST <- b` (R26). -/
def State.setSt (s : State) (b : Byte) : State := { s with st := b }

/-- `stack <- l` (R24). -/
def State.setStack (s : State) (l : List Word) : State := { s with stack := l }

/-- `Mem <- m` (R27). -/
def State.setMem (s : State) (m : Memory) : State := { s with mem := m }

/-- `Disp <- d` (R28). -/
def State.setDisp (s : State) (d : Display) : State := { s with disp := d }

/-- `waiting_for_input <- w` (R29). -/
def State.setWaiting (s : State) (w : Option RegIdx) : State := { s with waiting := w }

/-- The register whose index is the loop counter `k` of a block transfer (R164, R165): `k` is at most 15 there. -/
def regAt (k : Nat) : RegIdx := Fin.ofNat 16 k

/-- The inputs of the coming step (R33): the first the state lists, else the free value. Sampled once a step (R113). -/
def State.input (s : State) : StepInput := s.inputs.headD (Config.freeInput s.stepNo)

/-! ## Memory -/

/-- What an address that no cell lists reads as: the reset contents (R32, R58, R59), that is the font table from
`FONT_BASE` on and 0 everywhere else. -/
def Memory.background (a : Nat) : Byte :=
  if parameters.fontBase.toNat ≤ a then parameters.font.getD (a - parameters.fontBase.toNat) 0 else 0

/-- The canonical form of memory: addresses strictly rising and below 4096, no cell equal to what it would read as
unlisted. -/
abbrev Memory.wf (m : Memory) : Prop :=
  m.Pairwise (fun p q => p.1 < q.1) ∧ ∀ p ∈ m, p.1 < 4096 ∧ p.2 ≠ Memory.background p.1

/-- The byte at address `a`. -/
def Memory.readAt : Memory → Nat → Byte
  | [], a => Memory.background a
  | (k, b) :: rest, a => if k = a then b else Memory.readAt rest a

/-- The memory with the cell `(a, b)` put in its place, or in place of the cell that lists `a`. -/
def Memory.insertAt : Memory → Nat → Byte → Memory
  | [], a, b => [(a, b)]
  | (k, v) :: rest, a, b =>
    if a < k then (a, b) :: (k, v) :: rest
    else if a = k then (a, b) :: rest
    else (k, v) :: Memory.insertAt rest a b

/-- The memory with `b` at address `a`: a byte equal to what `a` reads as unlisted leaves no cell, so that equal
memories are equal lists. -/
def Memory.writeAt (m : Memory) (a : Nat) (b : Byte) : Memory :=
  if b = Memory.background a then m.filter (fun p => p.1 != a) else m.insertAt a b

/-- `Mem[e]` at an effective address (R6). -/
def Memory.read (m : Memory) (e : Addr) : Byte := m.readAt e.toNat

/-- `Mem[e] <- b` at an effective address (R6). -/
def Memory.write (m : Memory) (e : Addr) (b : Byte) : Memory := m.writeAt e.toNat b

/-- `EA(a) = a mod 4096` (R51). -/
def ea (a : Word) : Addr := a.setWidth 12

/-- The address value of byte `k` of a block that starts at `base`: `base +_16 k` (R51, R166). -/
def byteAddr (base : Word) (k : Nat) : Word := base + BitVec.ofNat 16 k

/-- `MemRead(a, 1)` (R52). -/
def State.readByte (s : State) (a : Word) : Byte := s.mem.read (ea a)

/-- Whether `ADDR_POLICY` lets an access to the `count` bytes from `base` go on (R51): always under `mask`; under
`fault`, when no address value is above 4095. -/
def accessAllowed (c : Config) (base : Word) (count : Nat) : Bool :=
  match c.addrPolicy with
  | .mask => true
  | .fault => (List.range count).all (fun k => decide ((byteAddr base k).toNat ≤ 4095))

/-- The memory after writing `f 0`, ..., `f (count - 1)` at `base`, `base +_16 1`, ... (R52, R163, R164). -/
def writeBytes (base : Word) (count : Nat) (f : Nat → Byte) (m : Memory) : Memory :=
  forUpTo count (fun k m => m.write (ea (byteAddr base k)) (f k)) m

/-- The state after `V[k] <- MemRead(base +_16 k, 1)` for `k` below `count` (R165). -/
def readIntoRegs (base : Word) (count : Nat) (s : State) : State :=
  forUpTo count (fun k t => t.setReg (regAt k) (s.readByte (byteAddr base k))) s

/-! ## Display -/

/-- `Disp[cx, cy]` (R6, R28). -/
def Display.get (d : Display) (cx : Column) (cy : Row) : Bool := (d[cy])[cx]

/-- `Disp[cx, cy] <- b` (R28). -/
def Display.put (d : Display) (cx : Column) (cy : Row) (b : Bool) : Display := d.set cy ((d[cy]).set cx b)

/-- The grid with every cell 0 (R170, R32). -/
def Display.blank : Display := Vector.replicate 32 (Vector.replicate 64 false)

/-- Element `k` of the grid in the linear order of the Snapshot: cell `(cx, cy)` is element `64 * cy + cx` (R28, R34). -/
def Snapshot.element (o : Snapshot) (k : Fin 2048) : Bool :=
  Display.get o.display (Fin.ofNat 64 k.val) (Fin.ofNat 32 (k.val / 64))

/-! ## Stack -/

/-- `push(stack, a)` (R6, R24). -/
def State.push (s : State) (a : Word) : State := s.setStack (s.stack ++ [a])

/-- `pop(stack)` (R6, R24): the last element and the state without it; none when the stack is empty. -/
def State.pop (s : State) : Option (Word × State) :=
  match s.stack.getLast? with
  | some a => some (a, s.setStack s.stack.dropLast)
  | none => none

/-- `len(stack) = STACK_DEPTH` (R203): never when the depth is unbounded.
A stack longer than a finite depth, which no run reaches, counts as full. -/
def stackFull (c : Config) (s : State) : Bool :=
  match c.stackDepth with
  | none => false
  | some n => decide (n ≤ s.stack.length)

/-! ## Faults -/

/-- `raise F` (R204): the step ends; the instruction has changed nothing. There is no handler and no return (R207, R208). -/
def raise (f : Fault) : Result := .fault f

/-- The state in which a step that raises `f` leaves the machine (R204): the latch is set, no Snapshot is returned, and
what phases 1 to 3 changed stands in `s`. -/
def latchFault (f : Fault) (s : State) : State := { s with fault := some f, snapshot := none }

end Sys2Proof.Machine
end

