-- ==== Sys2Proof/Machine/Cycle.lean ====
section
/-! DEFINITION. The phases of a step other than the execute phase (spec/40_step_cycle.md R102 to R112, R211). -/

namespace Sys2Proof.Machine

/-- Phase 1, key delivery (R102): a key event that arrives while the machine waits goes to the register that waits.
Any other key event is discarded. -/
def deliverKey (s : State) : State :=
  match s.waiting with
  | none => s
  | some r =>
    match s.input.keyEvent with
    | none => s
    | some k => (s.setReg r (zextKey k)).setWaiting none

/-- One timer, one tick (R211): down by one, floored at zero. -/
def countDown (b : Byte) : Byte := if b = 0 then 0 else b - 1

/-- Whether a tick is due (R104): at least `TIMER_PERIOD` has passed since the last one. -/
def tickDue (c : Config) (s : State) : Bool := decide (c.timerPeriod ≤ s.input.now - s.lastTick)

/-- Phase 3, the timer gate, under the parameters `c` (R104, R211): when a tick is due both timers count down and the
stamp becomes `now`. -/
def timerGateIn (c : Config) (s : State) : State :=
  { s with
    dt := if tickDue c s then countDown s.dt else s.dt
    st := if tickDue c s then countDown s.st else s.st
    lastTick := if tickDue c s then s.input.now else s.lastTick }

/-- Phase 3 of this machine. -/
def timerGate (s : State) : State := timerGateIn parameters s

/-- `MemRead(PC, 2)` (R52, R53, R105): the byte at `PC` is the high one. -/
def fetchWord (s : State) : Word := s.readByte s.pc ++ s.readByte (byteAddr s.pc 1)

/-- Phase 4a, the fetch, under the parameters `c` (R105): under `ADDR_POLICY = fault` it can end in `AddressFault`
(R107). -/
def fetchIn (c : Config) (s : State) : Except Fault Word :=
  if accessAllowed c s.pc 2 then .ok (fetchWord s) else .error .addressFault

/-- Phase 4a of this machine. -/
def fetch (s : State) : Except Fault Word := fetchIn parameters s

/-- Phase 5, the uniform advance (R108). -/
def advancePc (s : State) : State := s.setPc (s.pc + 2)

/-- The Snapshot of the state as it stands (R103, R109): the whole grid and `sound_on` are taken from it. -/
def snapshotOf (changed waiting : Bool) (s : State) : Snapshot where
  display := s.disp
  displayChanged := changed
  soundOn := s.st != 0
  waiting := waiting

/-- Phase 6 (R109), or the early return (R103): the step's outputs. -/
def report (changed waiting : Bool) (s : State) : State := { s with snapshot := some (snapshotOf changed waiting s) }

/-- The step's inputs are used up (R113): the next step has its own. -/
def nextInput (s : State) : State := { s with inputs := s.inputs.tail, stepNo := s.stepNo + 1 }

/-- How a stalled step ends (R103): nothing changes but the outputs. -/
def endStalled (s : State) : State := nextInput (report false true s)

/-- How an unstalled step ends (R108, R109): the advance, then the report. -/
def endStep (changed : Bool) (s : State) : State := nextInput (report changed false (advancePc s))

end Sys2Proof.Machine
end

