-- ==== Sys2Proof/Machine/ControlFlow.lean ====
section
/-! DEFINITION. Control flow (spec/41_control_flow.md): `SYS`, `NOP`, `RET`, `JP`, `CALL`, `JPV0`.
A meaning is the execute phase alone; the uniform advance by 2 (R108) is `advancePc` of Machine/Cycle.lean. -/

namespace Sys2Proof.Machine

/-- `PC <- target -_16 2`: the target is compensated for the uniform advance, modulo 65536 (R126). -/
def jumpTo (target : Word) (s : State) : State := s.setPc (target - 2)

/-- `SYS nnn` (R120): nothing. -/
def execSys (_nnn : Addr) (s : State) : Result := .next s

/-- The fallback no-op (R121): nothing. -/
def execNop (_w : Word) (s : State) : Result := .next s

/-- `RET` (R122): the popped value goes to `PC` uncompensated; `StackUnderflow` on an empty stack (R202). -/
def execRet (s : State) : Result :=
  match s.pop with
  | some (a, t) => .next (t.setPc a)
  | none => raise .stackUnderflow

/-- `JP nnn` (R123). -/
def execJp (nnn : Addr) (s : State) : Result := .next (jumpTo (zextAddr nnn) s)

/-- `CALL nnn` under the parameters `c` (R124): pushes the address of the `CALL` itself; `StackOverflow` on a full stack
when `STACK_DEPTH` is finite (R203). -/
def callIn (c : Config) (nnn : Addr) (s : State) : Result :=
  if stackFull c s then raise .stackOverflow else .next (jumpTo (zextAddr nnn) (s.push s.pc))

/-- `CALL nnn` (R124). -/
def execCall (nnn : Addr) (s : State) : Result := callIn parameters nnn s

/-- `JPV0 nnn` (R125). -/
def execJpV0 (nnn : Addr) (s : State) : Result := .next (jumpTo (zextAddr nnn + zextByte (s.reg 0)) s)

end Sys2Proof.Machine
end

