-- ==== Sys2Proof/Machine/Flags.lean ====
section
/-! DEFINITION. The flag `VF` (spec/10_state.md R21) and how the five flag-producing ALU instructions write it
(spec/43_load_alu.md R140). -/

namespace Sys2Proof.Machine

/-- A flag as a byte: 1 or 0. -/
def flagByte (b : Bool) : Byte := if b then 1 else 0

/-- The flag of `ADD Vx, Vy` (R147): the sum on unbounded numbers exceeds 255. -/
def carryFlag (vx vy : Byte) : Byte := flagByte (decide (vx.toNat + vy.toNat > 255))

/-- The flag of `SUB` and `SUBN` (R148, R150): the minuend is strictly greater, unsigned. -/
def greaterFlag (minuend subtrahend : Byte) : Byte := flagByte (decide (minuend.toNat > subtrahend.toNat))

/-- The flag of `SHR` and `SHL` (R149, R151): bit `k` of the operand before the shift. -/
def shiftedOutFlag (vx : Byte) (k : Nat) : Byte := flagByte (vx.getLsbD k)

/-- The two writes of a flag-producing instruction, in the order of `FLAG_WRITE_ORDER` (R140 (b)).
Both values are computed before either write (R140 (a)). -/
def writeFlagged (c : Config) (x : RegIdx) (flag result : Byte) (s : State) : State :=
  match c.flagOrder with
  | .flagThenResult => (s.setReg VF flag).setReg x result
  | .resultThenFlag => (s.setReg x result).setReg VF flag

end Sys2Proof.Machine
end

