-- ==== Sys2Proof/Machine/Operands.lean ====
section
/-! DEFINITION. What an instruction computes from its operands before it writes anything: the key test, the glyph
address, the decimal digits, the sprite's bits and cells. -/

namespace Sys2Proof.Machine

/-- `pressed(v)` (spec/42_skips.md R134): the byte names a key and that key's bit of `keys` is 1. -/
def pressed (keys : BitVec 16) (v : Byte) : Bool := decide (v.toNat ≤ 15) && keys.getLsbD v.toNat

/-- The address of the glyph for `v` (spec/44_index_memory.md R162): `(FONT_BASE + 5 * zext_16(v)) mod 65536`. -/
def glyphAddress (c : Config) (v : Byte) : Word := c.fontBase + 5 * zextByte v

/-- Byte `k` of the decimal store of `v` (R163): hundreds, tens, units. -/
def bcdDigit (v : Byte) (k : Nat) : Byte :=
  match k with
  | 0 => BitVec.ofNat 8 (v.toNat / 100)
  | 1 => BitVec.ofNat 8 (v.toNat / 10 % 10)
  | _ => BitVec.ofNat 8 (v.toNat % 10)

/-- The column of pixel column `col` of a sprite placed at `px` (spec/45_display.md R172). -/
def spriteColumn (px : Byte) (col : Nat) : Column := Fin.ofNat 64 (px.toNat + col)

/-- The row of pixel row `row` of a sprite placed at `py` (R172). -/
def spriteRow (py : Byte) (row : Nat) : Row := Fin.ofNat 32 (py.toNat + row)

/-- Pixel `col` of a sprite byte: bit `7 - col` (R173). -/
def spriteBit (b : Byte) (col : Nat) : Bool := b.getLsbD (7 - col)

end Sys2Proof.Machine
end

