-- ==== Sys2Proof/Machine/Display.lean ====
section
/-! DEFINITION. The display instructions (spec/45_display.md): `CLS` and `DRW`. -/

namespace Sys2Proof.Machine

/-- `CLS` (R170). -/
def execCls (s : State) : Result := .next (s.setDisp Display.blank)

/-- One pixel of a draw (R171): the cell is XORed with the sprite bit; a set cell that a set bit clears is a collision.
The second component says whether a collision has happened so far. -/
def drawPixel (cx : Column) (cy : Row) (bit : Bool) (a : Display × Bool) : Display × Bool :=
  (Display.put a.1 cx cy (Display.get a.1 cx cy ^^ bit), a.2 || (bit && Display.get a.1 cx cy))

/-- One row of a sprite: eight pixels, column 0 first (R171, R173). -/
def drawRow (px : Byte) (cy : Row) (b : Byte) (a : Display × Bool) : Display × Bool :=
  forUpTo 8 (fun col a => drawPixel (spriteColumn px col) cy (spriteBit b col) a) a

/-- The rows of a sprite, row 0 first: row `row` is the byte `bytes row` (R171, R173). -/
def drawRows (px py : Byte) (count : Nat) (bytes : Nat → Byte) (a : Display × Bool) : Display × Bool :=
  forUpTo count (fun row a => drawRow px (spriteRow py row) (bytes row) a) a

/-- `VF` as `DRW` leaves it (R171): what it starts from, OR'd with the collision. -/
def collisionFlag (c : Config) (old : Byte) (hit : Bool) : Byte :=
  (if c.drwClearsVf then 0 else old) ||| flagByte hit

/-- `DRW Vx, Vy, n` under the parameters `c` (R171): the position is read before `VF` is written; sprite rows are read
through `I`, which does not change. -/
def drawIn (c : Config) (x y : RegIdx) (n : BitVec 4) (s : State) : Result :=
  if accessAllowed c s.index n.toNat then
    let drawn := drawRows (s.reg x) (s.reg y) n.toNat (fun row => s.readByte (byteAddr s.index row)) (s.disp, false)
    .next ((s.setDisp drawn.1).setReg VF (collisionFlag c (s.reg VF) drawn.2))
  else raise .addressFault

/-- `DRW Vx, Vy, n` (R171). -/
def execDrw (x y : RegIdx) (n : BitVec 4) (s : State) : Result := drawIn parameters x y n s

/-- `display_changed` (spec/40_step_cycle.md R110): the executed instruction is `CLS` or `DRW`, whether or not a cell
changed. -/
def changesDisplay (i : Instr) : Bool :=
  match i with
  | .cls | .drw _ _ _ => true
  | .ret | .sys _ | .jp _ | .call _ | .seImm _ _ | .sneImm _ _ | .seReg _ _ | .ldImm _ _ | .addImm _ _ => false
  | .ldReg _ _ | .orReg _ _ | .andReg _ _ | .xorReg _ _ | .addReg _ _ | .subReg _ _ | .shr _ _ | .subnReg _ _ => false
  | .shl _ _ | .sneReg _ _ | .ldI _ | .jpV0 _ | .rnd _ _ | .skp _ | .sknp _ | .ldVxDt _ | .ldVxK _ => false
  | .ldDtVx _ | .ldStVx _ | .addI _ | .ldF _ | .ldB _ | .storeRegs _ | .loadRegs _ | .nop _ => false

end Sys2Proof.Machine
end

