-- ==== Sys2Proof/Machine/IndexMemory.lean ====
section
/-! DEFINITION. The index register and the instructions that access memory through it (spec/44_index_memory.md).
`I` is never changed by an access (R166). -/

namespace Sys2Proof.Machine

/-- `LD I, nnn` (R160). -/
def execLdI (nnn : Addr) (s : State) : Result := .next (s.setIndex (zextAddr nnn))

/-- `ADD I, Vx` (R161): modulo 65536, no flag. -/
def execAddI (x : RegIdx) (s : State) : Result := .next (s.setIndex (s.index + zextByte (s.reg x)))

/-- `LD F, Vx` (R162). -/
def execLdF (x : RegIdx) (s : State) : Result := .next (s.setIndex (glyphAddress parameters (s.reg x)))

/-- The bytes `f 0` to `f (count - 1)` stored from `I` on, under the parameters `c` (R166, R52): under
`ADDR_POLICY = fault` an address value above 4095 raises `AddressFault` before any effect (R51). -/
def storeBlockIn (c : Config) (count : Nat) (f : Nat → Byte) (s : State) : Result :=
  if accessAllowed c s.index count then .next (s.setMem (writeBytes s.index count f s.mem)) else raise .addressFault

/-- `LD B, Vx` (R163): the three decimal digits of `V[x]`. -/
def execLdB (x : RegIdx) (s : State) : Result := storeBlockIn parameters 3 (bcdDigit (s.reg x)) s

/-- `LD [I], Vx` (R164): `V[0]` to `V[x]`. -/
def execStoreRegs (x : RegIdx) (s : State) : Result :=
  storeBlockIn parameters (x.val + 1) (fun k => s.reg (regAt k)) s

/-- `V[0]` to `V[count - 1]` loaded from `I` on, under the parameters `c` (R165, R51). -/
def loadBlockIn (c : Config) (count : Nat) (s : State) : Result :=
  if accessAllowed c s.index count then .next (readIntoRegs s.index count s) else raise .addressFault

/-- `LD Vx, [I]` (R165): `V[0]` to `V[x]`. -/
def execLoadRegs (x : RegIdx) (s : State) : Result := loadBlockIn parameters (x.val + 1) s

end Sys2Proof.Machine
end

