-- ==== Sys2Proof/Machine/LoadAlu.lean ====
section
/-! DEFINITION. Loads, arithmetic, logic, shifts and the random byte (spec/43_load_alu.md).
All register arithmetic is modulo 256 (R153). -/

namespace Sys2Proof.Machine

/-- `LD Vx, kk` (R141). -/
def execLdImm (x : RegIdx) (kk : Byte) (s : State) : Result := .next (s.setReg x kk)

/-- `ADD Vx, kk` (R142): no flag. -/
def execAddImm (x : RegIdx) (kk : Byte) (s : State) : Result := .next (s.setReg x (s.reg x + kk))

/-- `LD Vx, Vy` (R143). -/
def execLdReg (x y : RegIdx) (s : State) : Result := .next (s.setReg x (s.reg y))

/-- `OR Vx, Vy` (R144): no flag. -/
def execOr (x y : RegIdx) (s : State) : Result := .next (s.setReg x (s.reg x ||| s.reg y))

/-- `AND Vx, Vy` (R145): no flag. -/
def execAnd (x y : RegIdx) (s : State) : Result := .next (s.setReg x (s.reg x &&& s.reg y))

/-- `XOR Vx, Vy` (R146): no flag. -/
def execXor (x y : RegIdx) (s : State) : Result := .next (s.setReg x (s.reg x ^^^ s.reg y))

/-- `ADD Vx, Vy` (R147): the carry out, and the sum modulo 256. -/
def execAddReg (x y : RegIdx) (s : State) : Result :=
  .next (writeFlagged parameters x (carryFlag (s.reg x) (s.reg y)) (s.reg x + s.reg y) s)

/-- `SUB Vx, Vy` (R148): `Vx - Vy`. -/
def execSub (x y : RegIdx) (s : State) : Result :=
  .next (writeFlagged parameters x (greaterFlag (s.reg x) (s.reg y)) (s.reg x - s.reg y) s)

/-- `SHR Vx` (R149): the `y` field is ignored. -/
def execShr (x _y : RegIdx) (s : State) : Result :=
  .next (writeFlagged parameters x (shiftedOutFlag (s.reg x) 0) (s.reg x >>> 1) s)

/-- `SUBN Vx, Vy` (R150): `Vy - Vx`, into `Vx`. -/
def execSubn (x y : RegIdx) (s : State) : Result :=
  .next (writeFlagged parameters x (greaterFlag (s.reg y) (s.reg x)) (s.reg y - s.reg x) s)

/-- `SHL Vx` (R151): the `y` field is ignored. -/
def execShl (x _y : RegIdx) (s : State) : Result :=
  .next (writeFlagged parameters x (shiftedOutFlag (s.reg x) 7) (s.reg x <<< 1) s)

/-- `RND Vx, kk` (R152): the `rnd` input of this step, masked. -/
def execRnd (x : RegIdx) (kk : Byte) (s : State) : Result := .next (s.setReg x (s.input.rnd &&& kk))

end Sys2Proof.Machine
end

