-- ==== Sys2Proof/Machine/Skips.lean ====
section
/-! DEFINITION. The conditional skips (spec/42_skips.md). -/

namespace Sys2Proof.Machine

/-- "skip-next" (R136): `PC <- PC +_16 2` when the condition holds. -/
def skipIf (cond : Bool) (s : State) : State := if cond then s.setPc (s.pc + 2) else s

/-- `SE Vx, kk` (R130). -/
def execSeImm (x : RegIdx) (kk : Byte) (s : State) : Result := .next (skipIf (s.reg x == kk) s)

/-- `SNE Vx, kk` (R131). -/
def execSneImm (x : RegIdx) (kk : Byte) (s : State) : Result := .next (skipIf (s.reg x != kk) s)

/-- `SE Vx, Vy` (R132). -/
def execSeReg (x y : RegIdx) (s : State) : Result := .next (skipIf (s.reg x == s.reg y) s)

/-- `SNE Vx, Vy` (R133). -/
def execSneReg (x y : RegIdx) (s : State) : Result := .next (skipIf (s.reg x != s.reg y) s)

/-- `SKP Vx` (R134), on the `keys` input of this step. -/
def execSkp (x : RegIdx) (s : State) : Result := .next (skipIf (pressed s.input.keys (s.reg x)) s)

/-- `SKNP Vx` (R135), on the `keys` input of this step. -/
def execSknp (x : RegIdx) (s : State) : Result := .next (skipIf (!pressed s.input.keys (s.reg x)) s)

end Sys2Proof.Machine
end

