-- ==== Sys2Proof/Machine/TimersKeys.lean ====
section
/-! DEFINITION. The timer and key-wait instructions (spec/46_timers_keys.md). -/

namespace Sys2Proof.Machine

/-- `LD Vx, DT` (R180). -/
def execLdVxDt (x : RegIdx) (s : State) : Result := .next (s.setReg x s.dt)

/-- `LD Vx, K` (R181): the stall latch is set; the key is delivered by a later step (R102). -/
def execLdVxK (x : RegIdx) (s : State) : Result := .next (s.setWaiting (some x))

/-- `LD DT, Vx` (R182). -/
def execLdDtVx (x : RegIdx) (s : State) : Result := .next (s.setDt (s.reg x))

/-- `LD ST, Vx` (R183). -/
def execLdStVx (x : RegIdx) (s : State) : Result := .next (s.setSt (s.reg x))

end Sys2Proof.Machine
end

