-- ==== Sys2Proof/Machine/Step.lean ====
section
/-! DEFINITION. The step (spec/40_step_cycle.md R101, R114): key delivery, stall check, timer gate, fetch, decode,
execute, advance, report. -/

namespace Sys2Proof.Machine

/-- Phases 1 and 3 of an unstalled step: the state its fetch and its instruction see (R101). -/
def beforeFetch (s : State) : State := timerGate (deliverKey s)

/-- Phases 4 to 6 of an unstalled step. -/
def runInstr (s : State) : Result :=
  match fetch s with
  | .error f => raise f
  | .ok w =>
    match exec (decode w) s with
    | .next t => .next (endStep (changesDisplay (decode w)) t)
    | .fault f => .fault f
    | .refused r => .refused r

/-- One step. A faulted machine takes none (R204). -/
def step (s : State) : Host.Outcome State Fault Refusal :=
  match s.fault with
  | some f => .fault f
  | none =>
    match (deliverKey s).waiting with
    | some _ => .next (endStalled (deliverKey s))
    | none => runInstr (beforeFetch s)

/-- `s` with the instruction word `w` stored where the next step fetches: at `EA(PC)` and `EA(PC +_16 1)`, high byte
first; the two latches that keep a step from fetching, the stall latch and the fault latch, are cleared.
Bits of `w` at `nbits` and above are 0. -/
def State.withFetchWord (s : State) (nbits w : Nat) : State :=
  { s with
    mem := (s.mem.write (ea s.pc) (BitVec.ofNat 8 (w % 2 ^ nbits / 256))).write (ea (byteAddr s.pc 1))
      (BitVec.ofNat 8 (w % 2 ^ nbits))
    waiting := none
    fault := none }

end Sys2Proof.Machine
end

