-- ==== Sys2Proof/Machine/FaultState.lean ====
section
/-! DEFINITION. The fault state (spec/60_exceptions.md R204): where a step that raises a fault leaves the machine. -/

namespace Sys2Proof.Machine

/-- The state after a step that raises a fault: what phases 1 to 3 changed stands, the faulting instruction changed
nothing, `PC` is at it, and the latch holds the fault. A machine that had faulted already stays as it is. None when the
step raises no fault. -/
def faultState (s : State) : Option State :=
  match step s with
  | .fault f => if s.fault.isSome then some s else some (latchFault f (beforeFetch s))
  | .next _ => none
  | .refused _ => none

end Sys2Proof.Machine
end

