-- ==== Sys2Proof/Machine/Reset.lean ====
section
/-! DEFINITION. Reset is construction (spec/70_reset_and_hazards.md R240, R241, R243): the state from a ROM and a time. -/

namespace Sys2Proof.Machine

/-- `ROM_MAX` (R4, R243). -/
def romMax : Nat := 3584

/-- Memory with the ROM copied to 0x200 and on (R241). -/
def loadRom : Nat → List Byte → Memory → Memory
  | _, [], m => m
  | a, b :: rest, m => loadRom (a + 1) rest (m.writeAt a b)

/-- `reset(rom, t_reset)` (R241): refused for a ROM of more than 3584 bytes (R243). -/
def construct (rom : List Byte) (tReset : Time) : Result :=
  if rom.length ≤ romMax then
    .next { State.reset with mem := loadRom 0x200 rom [], lastTick := parameters.t0.getD tReset }
  else .refused .romTooLong

end Sys2Proof.Machine
end

