-- ==== Sys2Proof/Safety.lean ====
section
/-! DEFINITION. The terms claims about the machine use: what an instruction leaves unchanged, the invariant of a state,
when a step runs an instruction, and the states a run reaches. -/

namespace Sys2Proof.Machine

/-- What an instruction may change in its execute phase. Everything is unchanged by default. -/
structure Footprint where
  regs : List RegIdx := []
  index : Bool := false
  pc : Bool := false
  stack : Bool := false
  dt : Bool := false
  st : Bool := false
  mem : List Addr := []
  disp : Bool := false
  waiting : Bool := false
  deriving DecidableEq, Repr

/-- From `s` to `t` nothing changed outside the footprint `f`: not a register, not a byte of memory, and never the tick
stamp, the fault latch, the listed inputs, the step number or the last outputs, which no instruction writes. -/
structure ChangesOnly (f : Footprint) (s t : State) : Prop where
  regs : ∀ j : RegIdx, j ∉ f.regs → t.reg j = s.reg j
  index : f.index = false → t.index = s.index
  pc : f.pc = false → t.pc = s.pc
  stack : f.stack = false → t.stack = s.stack
  dt : f.dt = false → t.dt = s.dt
  st : f.st = false → t.st = s.st
  mem : ∀ a : Addr, a ∉ f.mem → t.mem.read a = s.mem.read a
  disp : f.disp = false → t.disp = s.disp
  waiting : f.waiting = false → t.waiting = s.waiting
  lastTick : t.lastTick = s.lastTick
  fault : t.fault = s.fault
  inputs : t.inputs = s.inputs
  stepNo : t.stepNo = s.stepNo
  snapshot : t.snapshot = s.snapshot

/-- The effective addresses of the `count` bytes from address value `base` on (spec/20_memory.md R51, R166). -/
def blockAddrs (base : Word) (count : Nat) : List Addr := (List.range count).map (fun k => ea (byteAddr base k))

/-- What each instruction may change, read from the spec's rules: the flag writers of spec/10_state.md R21, the writers
of `I` (R22), of `PC` (R23), of the stack (R24), of the timers (R25, R26), of `Mem` (spec/20_memory.md R65), of `Disp`
(R28) and of the stall latch (R29). -/
def footprint (i : Instr) (s : State) : Footprint :=
  match i with
  | .cls => { disp := true }
  | .ret => { pc := true, stack := true }
  | .sys _ | .nop _ => {}
  | .jp _ | .jpV0 _ => { pc := true }
  | .call _ => { pc := true, stack := true }
  | .seImm _ _ | .sneImm _ _ | .seReg _ _ | .sneReg _ _ | .skp _ | .sknp _ => { pc := true }
  | .ldImm x _ | .addImm x _ | .ldReg x _ | .orReg x _ | .andReg x _ | .xorReg x _ | .rnd x _ => { regs := [x] }
  | .addReg x _ | .subReg x _ | .shr x _ | .subnReg x _ | .shl x _ => { regs := [x, VF] }
  | .ldI _ | .addI _ | .ldF _ => { index := true }
  | .drw _ _ _ => { regs := [VF], disp := true }
  | .ldVxDt x => { regs := [x] }
  | .ldVxK _ => { waiting := true }
  | .ldDtVx _ => { dt := true }
  | .ldStVx _ => { st := true }
  | .ldB _ => { mem := blockAddrs s.index 3 }
  | .storeRegs x => { mem := blockAddrs s.index (x.val + 1) }
  | .loadRegs x => { regs := (List.range (x.val + 1)).map regAt }

/-- The outputs of the last step tell of the state as it stands: the grid is the display, `sound_on` is `ST != 0`, and a
step that reported `waiting` left the machine stalled and the display unchanged (R34, R103, R109, R111, R112). -/
def SnapshotFits (s : State) : Prop :=
  ∀ o : Snapshot, s.snapshot = some o →
    o.display = s.disp ∧ (o.soundOn = true ↔ s.st ≠ 0) ∧
      (o.waiting = true → s.waiting.isSome = true ∧ o.displayChanged = false)

/-- The invariant of the machine between steps: memory has its canonical form, so every listed address is in 0 to 4095
(R35 (d)); no fault is latched; the outputs fit the state. -/
structure Inv (s : State) : Prop where
  mem : s.mem.wf
  fault : s.fault = none
  snapshot : SnapshotFits s

/-- The next step of `s` runs the instruction `i`: no fault is latched, the machine is not stalled after key delivery, and
the word fetched decodes to `i`. -/
def Runs (s : State) (i : Instr) : Prop :=
  s.fault = none ∧ (deliverKey s).waiting = none ∧ decode (fetchWord (beforeFetch s)) = i

/-- The next step of `s` is a stalled one (spec/40_step_cycle.md R103). -/
def Stalled (s : State) : Prop := s.fault = none ∧ s.waiting.isSome = true ∧ s.input.keyEvent = none

/-- The sprite of `DRW Vx, Vy, n` at a cell of the display (spec/45_display.md R172, R173): the cell's distance, to the
right and downward with wrap-around, from the sprite's top-left pixel picks the row's byte and the bit in it. -/
def spriteCell (s : State) (x y : RegIdx) (n : BitVec 4) (cx : Column) (cy : Row) : Bool :=
  let row := (cy.val + 32 - (s.reg y).toNat % 32) % 32
  let col := (cx.val + 64 - (s.reg x).toNat % 64) % 64
  decide (row < n.toNat) && decide (col < 8) && (s.readByte (byteAddr s.index row)).getLsbD (7 - col)

/-- A safe run of `k` steps: it ends in no fault and no refusal. -/
def RunsSafely : Nat → State → Prop
  | 0, _ => True
  | k + 1, s => ∃ t : State, step s = .next t ∧ RunsSafely k t

/-- The states that steps reach from `s`. -/
inductive Reaches (s : State) : State → Prop where
  | refl : Reaches s s
  | tail {t u : State} : Reaches s t → step t = .next u → Reaches s u

end Sys2Proof.Machine
end

