-- ==== Sys2Proof/Certificates/Slice0/Obligations.lean ====
section
/-! DEFINITION. The statements for the provers. A statement whose clause rests on a decision of the spec (D<n>), or on an
entry of the assumption log, names it in its docstring. -/

open Sys2Proof Sys2Proof.Machine

/-! ## Encoding -/

/-- Eleven words of spec/95_test_vectors.md 2.1 (R75): family 0 three times, 8 twice, and 2, 3, A, D, E, F once each.
0x812E and 0x8128 rest on the nibble assignment of D11, and 0xF165 as the block load on the pairing of R79, which is from
general knowledge (log entry 10, PRESUMED); that `NOP` carries its word is the model's choice (log entry 7). -/
def Obligations.WordsOfTheSpecDecode : Prop :=
  decode 0x00E0 = .cls ∧ decode 0x00EE = .ret ∧ decode 0x00E1 = .sys 0x0E1 ∧ decode 0x2FFE = .call 0xFFE ∧
    decode 0x3A7F = .seImm 10 0x7F ∧ decode 0x812E = .shl 1 2 ∧ decode 0x8128 = .nop 0x8128 ∧
    decode 0xA123 = .ldI 0x123 ∧ decode 0xD125 = .drw 1 2 5 ∧ decode 0xE1A1 = .sknp 1 ∧ decode 0xF165 = .loadRegs 1

/-- Every operand survives encoding and decoding (R72, R74, R75). The selectors rest on D11, D12 and the
pairing of R79 (log entry 10); that `NOP` carries its word is log entry 7. -/
def Obligations.DecodeOfEncodeIsTheInstruction : Prop :=
  ∀ i : Instr, i.wellFormed = true → decode (encode i) = i

/-- Decoding is total, gives a well-formed term, and drops no bit of the word (R74, R86; D11, D12 and log entries 7
and 10 as above). -/
def Obligations.EncodeOfDecodeIsTheWord : Prop :=
  ∀ w : Word, (decode w).wellFormed = true ∧ encode (decode w) = w

/-- R74: the first row of R75 that matches selects the instruction, and a word matches two of the 35 rows only where
`00E0` or `00EE` stands before the catch-all `0nnn`. The rows themselves rest on D11, D12 and the pairing of
R79 (log entry 10). -/
def Obligations.DecodeIsTheFirstMatchingRow : Prop :=
  ∀ w : Word, (decode w).row = firstRow w ∧
    ∀ r : Nat, r < 35 → rowMatches w (opcodeRows.getD r (0, 1)) = true → r ≠ firstRow w → r = 2 ∧ firstRow w ≤ 1

/-- R81: the words that decode to the fallback no-op, family by family (D11, D12). That `NOP` carries its word is log
entry 7. -/
def Obligations.UnmatchedWordsDecodeToNop : Prop :=
  ∀ w : Word, decode w = .nop w ↔
    (w.toNat / 4096 = 5 ∧ w.toNat % 16 ≠ 0) ∨ (w.toNat / 4096 = 8 ∧ 8 ≤ w.toNat % 16 ∧ w.toNat % 16 ≠ 14) ∨
    (w.toNat / 4096 = 9 ∧ w.toNat % 16 ≠ 0) ∨
    (w.toNat / 4096 = 14 ∧ w.toNat % 256 ≠ 0x9E ∧ w.toNat % 256 ≠ 0xA1) ∨
    (w.toNat / 4096 = 15 ∧ w.toNat % 256 ∉ [0x07, 0x0A, 0x15, 0x18, 0x1E, 0x29, 0x33, 0x55, 0x65])

/-- R76, R78: the words of family 0, and those of family E. That `NOP` carries its word, in the last clause, is the model's
choice (log entry 7). -/
def Obligations.FamiliesZeroAndEDecode : Prop :=
  (∀ w : Word, decode w = .cls ↔ w = 0x00E0) ∧ (∀ w : Word, decode w = .ret ↔ w = 0x00EE) ∧
    (∀ (w : Word) (nnn : Addr), decode w = .sys nnn ↔
      w.toNat / 4096 = 0 ∧ w ≠ 0x00E0 ∧ w ≠ 0x00EE ∧ nnn.toNat = w.toNat % 4096) ∧
    (∀ (w : Word) (x : RegIdx), (decode w = .skp x ↔ w.toNat = 0xE09E + 256 * x.val) ∧
      (decode w = .sknp x ↔ w.toNat = 0xE0A1 + 256 * x.val)) ∧
    ∀ w : Word, w.toNat / 4096 = 14 → w.toNat % 256 ≠ 0x9E → w.toNat % 256 ≠ 0xA1 → decode w = .nop w

/-! ## The step -/

/-- R105 to R109: when the bytes at `PC` are the word of a well-formed `i`, an unstalled step is `exec i` of the state
after key delivery and the timer gate, then the advance by 2 (D23), the report (D18, D30), and the next step's inputs.
That outputs and inputs stand in the state is log entries 2 and 3. -/
def Obligations.StepRunsTheDecodedInstruction : Prop :=
  ∀ (s : State) (i : Instr), s.fault = none → (deliverKey s).waiting = none → i.wellFormed = true →
    s.readByte s.pc = (encode i).extractLsb' 8 8 → s.readByte (s.pc + 1) = (encode i).extractLsb' 0 8 →
    step s = match exec i (timerGate (deliverKey s)) with
      | .next t => .next (nextInput (report (changesDisplay i) false (t.setPc (t.pc + 2))))
      | .fault f => .fault f
      | .refused r => .refused r

/-- The machine's host interface: a word placed by `withFetchWord` is the one the very next step runs (log
entry 5). -/
def Obligations.PlacedWordIsTheNextInstruction : Prop :=
  ∀ (s : State) (w : Nat), w < 65536 → Runs (s.withFetchWord 16 w) (decode (BitVec.ofNat 16 w)) ∧
    ∀ a : Addr, a ≠ ea s.pc → a ≠ ea (s.pc + 1) → (s.withFetchWord 16 w).mem.read a = s.mem.read a

/-- R102, phase 1: a key event that comes while the machine waits goes, zero-extended, to the register that waits and
ends the wait; in every other case nothing happens, whatever `keys` holds. -/
def Obligations.KeyDeliveryFillsTheWaitingRegister : Prop :=
  (∀ (s : State) (r : RegIdx) (k : KeyCode), s.waiting = some r → s.input.keyEvent = some k →
      ((deliverKey s).reg r).toNat = k.toNat ∧ (deliverKey s).waiting = none ∧
        ChangesOnly { regs := [r], waiting := true } s (deliverKey s)) ∧
    ∀ s : State, s.waiting = none ∨ s.input.keyEvent = none → deliverKey s = s

/-- R103: a stalled step changes nothing and reports no display change, the current sound state and `waiting`.
That the report carries the whole grid is D36; that it and the inputs stand in the state is log entries 2 and 3. -/
def Obligations.StalledStepChangesNothing : Prop :=
  ∀ s : State, Stalled s → ∃ t o, step s = .next t ∧ t.snapshot = some o ∧ o.display = s.disp ∧
    o.displayChanged = false ∧ (o.soundOn = true ↔ s.st ≠ 0) ∧ o.waiting = true ∧
    t = { s with snapshot := some o, inputs := s.inputs.tail, stepNo := s.stepNo + 1 }

/-- R211: a tick takes one from each timer that is not zero and leaves one at zero there; no tick, no change; and no
instruction but the two timer writes changes a timer. -/
def Obligations.TimerTickCountsBothTimersDown : Prop :=
  (∀ s : State, tickDue parameters s = true →
      (timerGate s).dt.toNat = (if 0 < s.dt.toNat then s.dt.toNat - 1 else 0) ∧
        (timerGate s).st.toNat = (if 0 < s.st.toNat then s.st.toNat - 1 else 0)) ∧
    (∀ s : State, tickDue parameters s = false → timerGate s = s) ∧
    ∀ (i : Instr) (s t : State), (∀ x, i ≠ .ldDtVx x ∧ i ≠ .ldStVx x) → exec i s = .next t →
      t.dt = s.dt ∧ t.st = s.st

/-- R104: the gate opens when at least 50/3 ms (D2) have passed since the last tick, and then the stamp is `now`.
Apart from the two timers and the stamp it changes nothing. -/
def Obligations.TimerGateOpensAfterOnePeriod : Prop :=
  ∀ s : State, (tickDue parameters s = true ↔ (50 / 3 : Rat) ≤ s.input.now - s.lastTick) ∧
    ((50 / 3 : Rat) ≤ s.input.now - s.lastTick → (timerGate s).lastTick = s.input.now) ∧
    (s.input.now - s.lastTick < (50 / 3 : Rat) → timerGate s = s) ∧
    timerGate s = { s with dt := (timerGate s).dt, st := (timerGate s).st, lastTick := (timerGate s).lastTick }

/-- R212 (a), (b), R35 (e): over a step the tick stamp stays, or moves to this step's `now` by at least one period, in an
unstalled step (D2). -/
def Obligations.TickStampMovesByAtLeastOnePeriod : Prop :=
  ∀ s t : State, step s = .next t →
    t.lastTick = s.lastTick ∨
      (¬ Stalled s ∧ t.lastTick = s.input.now ∧ (50 / 3 : Rat) ≤ t.lastTick - s.lastTick)

/-- R111: the reported `sound_on` is `ST != 0` of the state the step leaves, and a stalled step keeps `ST`. -/
def Obligations.SoundFlagIsTheSoundTimer : Prop :=
  ∀ s t : State, step s = .next t → (∃ o, t.snapshot = some o ∧ (o.soundOn = true ↔ t.st ≠ 0)) ∧
    (Stalled s → t.st = s.st)

/-- R109, R110, R112: the report of an unstalled step. `display_changed` by instruction is D18, `waiting = 0` is D30. -/
def Obligations.ReportOfAnExecutedInstruction : Prop :=
  ∀ (s t : State) (i : Instr), Runs s i → step s = .next t → ∃ o, t.snapshot = some o ∧ o.display = t.disp ∧
    (o.displayChanged = true ↔ i = .cls ∨ ∃ x y n, i = .drw x y n) ∧ o.waiting = false

/-- R28, R34: the linear order of the reported grid (D17). -/
def Obligations.ReportedGridIsInLinearOrder : Prop :=
  ∀ (o : Snapshot) (cx : Column) (cy : Row),
    o.element (Fin.ofNat 2048 (64 * cy.val + cx.val)) = Display.get o.display cx cy

/-- R115: the two-state machine of the wait (R103, R112; D30): only `LD Vx, K` enters it, only a key event leaves it. -/
def Obligations.WaitForAKeyIsATwoStateMachine : Prop :=
  (∀ s t : State, Stalled s → step s = .next t → t.waiting = s.waiting) ∧
    (∀ (s t : State) (x : RegIdx), Runs s (.ldVxK x) → step s = .next t → t.waiting = some x) ∧
    (∀ (s t : State) (i : Instr), Runs s i → (∀ x, i ≠ .ldVxK x) → step s = .next t → t.waiting = none) ∧
    ∀ s : State, s.fault = none → Stalled s ∨ ∃ i, Runs s i

/-- R116: the step that executes `LD Vx, K` leaves `PC` past it, stalled steps leave `PC` there, and the step that
delivers the key fetches from there. -/
def Obligations.ProgramCounterDuringAWait : Prop :=
  (∀ (s : State) (x : RegIdx), Runs s (.ldVxK x) → ∃ t, step s = .next t ∧ t.pc = s.pc + 2 ∧ t.waiting = some x) ∧
    (∀ s : State, Stalled s → ∃ t, step s = .next t ∧ t.pc = s.pc) ∧
    ∀ (s : State) (r : RegIdx) (k : KeyCode), s.fault = none → s.waiting = some r → s.input.keyEvent = some k →
      Runs s (decode (s.readByte s.pc ++ s.readByte (s.pc + 1)))

/-- R33, R102, R103, R134, R152: an input that the step does not use changes nothing of its outcome. That the
inputs stand in the state is log entry 2. -/
def Obligations.UnusedInputsDoNotMatter : Prop :=
  ∀ (s : State) (a : StepInput) (l : List StepInput), s.inputs = a :: l →
    (∀ r, (∀ x kk, ¬ Runs s (.rnd x kk)) → step { s with inputs := { a with rnd := r } :: l } = step s) ∧
    (∀ ks, (∀ x, ¬ Runs s (.skp x) ∧ ¬ Runs s (.sknp x)) →
      step { s with inputs := { a with keys := ks } :: l } = step s) ∧
    (∀ e, s.waiting = none → step { s with inputs := { a with keyEvent := e } :: l } = step s) ∧
    (Stalled s → ∀ b : StepInput, b.keyEvent = none → step { s with inputs := b :: l } = step s)

/-! ## All instructions -/

/-- R107: every instruction completes in every state, but for `RET` on an empty stack (D24 to D26). -/
def Obligations.EveryInstructionCompletes : Prop :=
  ∀ (i : Instr) (s : State), (i = .ret → s.stack ≠ []) → ∃ t, exec i s = .next t

/-- The frame of every instruction: nothing changes outside its footprint (R21 to R31, R65; D28). For the storing forms
the footprint computes the bytes stored to, from `I` before the instruction. -/
def Obligations.NothingChangesOutsideTheFootprint : Prop :=
  ∀ (i : Instr) (s t : State), exec i s = .next t → ChangesOnly (footprint i s) s t

/-! ## Control flow -/

/-- R120, R121: `SYS` and the fallback no-op do nothing in their execute phase; their step advances `PC` by 2 and reports
no display change; unloaded memory is `SYS 0`. -/
def Obligations.NoOpsOnlyAdvance : Prop :=
  (∀ (nnn : Addr) (s : State), exec (.sys nnn) s = .next s) ∧ (∀ (w : Word) (s : State), exec (.nop w) s = .next s) ∧
    (∀ (s : State) (i : Instr), Runs s i → ((∃ nnn, i = .sys nnn) ∨ ∃ w, i = .nop w) →
      ∃ t o, step s = .next t ∧ t.pc = s.pc + 2 ∧ ChangesOnly { pc := true } (beforeFetch s)
          { t with inputs := s.inputs, stepNo := s.stepNo, snapshot := s.snapshot } ∧
        t.snapshot = some o ∧ o.displayChanged = false) ∧
    decode 0x0000 = .sys 0

/-- R123, R124, R125: what the three jumps leave for the uniform advance to complete (D23), and what `CALL` pushes
(D27). -/
def Obligations.JumpsAreCompensated : Prop :=
  ∀ (nnn : Addr) (s : State),
    (∃ t, exec (.jp nnn) s = .next t ∧ (t.pc + 2).toNat = nnn.toNat ∧ ChangesOnly { pc := true } s t) ∧
    (∃ t, exec (.call nnn) s = .next t ∧ (t.pc + 2).toNat = nnn.toNat ∧ t.stack = s.stack ++ [s.pc] ∧
      ChangesOnly { pc := true, stack := true } s t) ∧
    ∃ t, exec (.jpV0 nnn) s = .next t ∧ (t.pc + 2).toNat = nnn.toNat + (s.reg 0).toNat ∧
      ChangesOnly { pc := true } s t

/-- R126: over a whole step the three jumps land exactly on their target (D23), 0 and 1 included. -/
def Obligations.JumpStepsLandOnTheTarget : Prop :=
  ∀ (s : State) (nnn : Addr),
    (Runs s (.jp nnn) → ∃ t, step s = .next t ∧ t.pc.toNat = nnn.toNat ∧ t.stack = s.stack) ∧
    (Runs s (.call nnn) → ∃ t, step s = .next t ∧ t.pc.toNat = nnn.toNat ∧ t.stack = s.stack ++ [s.pc]) ∧
    (Runs s (.jpV0 nnn) →
      ∃ t, step s = .next t ∧ t.pc.toNat = nnn.toNat + ((deliverKey s).reg 0).toNat ∧ t.stack = s.stack)

/-- R122: `RET` with a value on the stack pops it into `PC`. -/
def Obligations.ReturnPopsIntoTheProgramCounter : Prop :=
  ∀ (s : State) (l : List Word) (a : Word), s.stack = l ++ [a] →
    ∃ t, exec .ret s = .next t ∧ t.pc = a ∧ t.stack = l ∧ ChangesOnly { pc := true, stack := true } s t

/-- R122, R124 (E6): a `CALL` whose target holds `RET` comes back to the instruction after it, with the stack as it was
(D27). -/
def Obligations.CallThenReturnComesBack : Prop :=
  ∀ (s : State) (nnn : Addr), Runs s (.call nnn) →
    ∃ t, step s = .next t ∧ (Runs t .ret → ∃ u, step t = .next u ∧ u.pc = s.pc + 2 ∧ u.stack = s.stack)

/-- R202: `RET` on an empty stack raises `StackUnderflow` (D25). -/
def Obligations.ReturnOnAnEmptyStackFaults : Prop :=
  ∀ s : State, s.stack = [] → exec .ret s = .fault .stackUnderflow ∧
    (Runs s .ret → step s = .fault .stackUnderflow)

/-- R204, R207: the only fault of a step is `StackUnderflow` of `RET`, and it leaves the machine in the fault state: the
latch set, no outputs, what phases 1 to 3 did standing, nothing else changed, and no further step (D25, D34). That
`step` answers the latched fault again is log entry 13. -/
def Obligations.FaultStateIsPreciseAndFinal : Prop :=
  ∀ (s : State) (f : Fault), s.fault = none → step s = .fault f →
    f = .stackUnderflow ∧ Runs s .ret ∧ s.stack = [] ∧
      ∃ u, faultState s = some u ∧ u.fault = some f ∧ u.snapshot = none ∧ step u = .fault f ∧ u.pc = s.pc ∧
        u.stack = [] ∧ u.mem = s.mem ∧ u.disp = s.disp ∧ u.index = s.index ∧ u.waiting = none ∧
        (∀ j, u.reg j = (deliverKey s).reg j) ∧ u.dt = (timerGate s).dt ∧ u.st = (timerGate s).st ∧
        u.lastTick = (timerGate s).lastTick

/-- R203: under a finite `STACK_DEPTH` a `CALL` on a full stack raises `StackOverflow`, and below it completes (D26).
This is about the parameter, not about the default, under which the stack is unbounded. -/
def Obligations.FiniteStackOverflows : Prop :=
  ∀ (c : Config) (depth : Nat) (nnn : Addr) (s : State), c.stackDepth = some depth →
    (s.stack.length = depth → callIn c nnn s = .fault .stackOverflow) ∧
    (s.stack.length < depth → ∃ t, callIn c nnn s = .next t ∧ t.stack = s.stack ++ [s.pc])

/-! ## Skips -/

/-- R130 to R133: the four comparisons, with the net effect on `PC` once the uniform advance has followed. -/
def Obligations.ComparisonSkips : Prop :=
  ∀ (x y : RegIdx) (kk : Byte) (s : State),
    (∃ t, exec (.seImm x kk) s = .next t ∧ ChangesOnly { pc := true } s t ∧
      (s.reg x = kk → t.pc + 2 = s.pc + 4) ∧ (s.reg x ≠ kk → t.pc + 2 = s.pc + 2)) ∧
    (∃ t, exec (.sneImm x kk) s = .next t ∧ ChangesOnly { pc := true } s t ∧
      (s.reg x ≠ kk → t.pc + 2 = s.pc + 4) ∧ (s.reg x = kk → t.pc + 2 = s.pc + 2)) ∧
    (∃ t, exec (.seReg x y) s = .next t ∧ ChangesOnly { pc := true } s t ∧
      (s.reg x = s.reg y → t.pc + 2 = s.pc + 4) ∧ (s.reg x ≠ s.reg y → t.pc + 2 = s.pc + 2)) ∧
    ∃ t, exec (.sneReg x y) s = .next t ∧ ChangesOnly { pc := true } s t ∧
      (s.reg x ≠ s.reg y → t.pc + 2 = s.pc + 4) ∧ (s.reg x = s.reg y → t.pc + 2 = s.pc + 2)

/-- R134, R135: the key skips on this step's `keys`; a value above 15 names no key (D19); exactly one of the two skips. -/
def Obligations.KeySkips : Prop :=
  ∀ (x : RegIdx) (s : State), ∃ t u, exec (.skp x) s = .next t ∧ exec (.sknp x) s = .next u ∧
    ChangesOnly { pc := true } s t ∧ ChangesOnly { pc := true } s u ∧
    ((s.reg x).toNat ≤ 15 → s.input.keys.getLsbD (s.reg x).toNat = true → t.pc = s.pc + 2 ∧ u.pc = s.pc) ∧
    ((s.reg x).toNat ≤ 15 → s.input.keys.getLsbD (s.reg x).toNat = false → t.pc = s.pc ∧ u.pc = s.pc + 2) ∧
    (15 < (s.reg x).toNat → t.pc = s.pc ∧ u.pc = s.pc + 2)

/-! ## Loads and arithmetic -/

/-- R141, R143, R180: the three loads of a register from an immediate, a register, the delay timer. -/
def Obligations.RegisterLoads : Prop :=
  ∀ (x y : RegIdx) (kk : Byte) (s : State),
    (∃ t, exec (.ldImm x kk) s = .next t ∧ t.reg x = kk ∧ ChangesOnly { regs := [x] } s t) ∧
    (∃ t, exec (.ldReg x y) s = .next t ∧ t.reg x = s.reg y ∧ ChangesOnly { regs := [x] } s t) ∧
    ∃ t, exec (.ldVxDt x) s = .next t ∧ t.reg x = s.dt ∧ ChangesOnly { regs := [x] } s t

/-- R142, R144 to R146: add immediate modulo 256, and the three bitwise operations, bit by bit; no flag is written
(D28). -/
def Obligations.AddImmediateAndLogic : Prop :=
  ∀ (x y : RegIdx) (kk : Byte) (s : State),
    (∃ t, exec (.addImm x kk) s = .next t ∧ (t.reg x).toNat = ((s.reg x).toNat + kk.toNat) % 256 ∧
      ChangesOnly { regs := [x] } s t) ∧
    (∃ t, exec (.orReg x y) s = .next t ∧
      (∀ b, (t.reg x).getLsbD b = true ↔ (s.reg x).getLsbD b = true ∨ (s.reg y).getLsbD b = true) ∧
      ChangesOnly { regs := [x] } s t) ∧
    (∃ t, exec (.andReg x y) s = .next t ∧
      (∀ b, (t.reg x).getLsbD b = true ↔ (s.reg x).getLsbD b = true ∧ (s.reg y).getLsbD b = true) ∧
      ChangesOnly { regs := [x] } s t) ∧
    ∃ t, exec (.xorReg x y) s = .next t ∧
      (∀ b, (t.reg x).getLsbD b = true ↔ (s.reg x).getLsbD b ≠ (s.reg y).getLsbD b) ∧
      ChangesOnly { regs := [x] } s t

/-- R147: the sum modulo 256 and the carry. With `x` the flag register the result stands in place of the flag (D14), and
both operands are the values before the instruction (D13). -/
def Obligations.AddReportsTheCarry : Prop :=
  ∀ (x y : RegIdx) (s : State), ∃ t, exec (.addReg x y) s = .next t ∧
    (t.reg x).toNat = ((s.reg x).toNat + (s.reg y).toNat) % 256 ∧
    (x ≠ VF → t.reg VF = if (s.reg x).toNat + (s.reg y).toNat > 255 then 1 else 0) ∧
    ChangesOnly { regs := [x, VF] } s t

/-- R148, R150: the two subtractions modulo 256, and the strict comparison as the flag (D13 and D14 as above). -/
def Obligations.SubtractionsReportStrictlyGreater : Prop :=
  ∀ (x y : RegIdx) (s : State),
    (∃ t, exec (.subReg x y) s = .next t ∧
      (t.reg x).toNat = (256 + (s.reg x).toNat - (s.reg y).toNat) % 256 ∧
      (x ≠ VF → t.reg VF = if (s.reg x).toNat > (s.reg y).toNat then 1 else 0) ∧
      ChangesOnly { regs := [x, VF] } s t) ∧
    ∃ t, exec (.subnReg x y) s = .next t ∧
      (t.reg x).toNat = (256 + (s.reg y).toNat - (s.reg x).toNat) % 256 ∧
      (x ≠ VF → t.reg VF = if (s.reg y).toNat > (s.reg x).toNat then 1 else 0) ∧
      ChangesOnly { regs := [x, VF] } s t

/-- R149, R151: the two shifts by one, and the bit shifted out as the flag; `y` is ignored (D14 as above). -/
def Obligations.ShiftsReportTheBitShiftedOut : Prop :=
  ∀ (x y : RegIdx) (s : State),
    (∃ t, exec (.shr x y) s = .next t ∧ (t.reg x).toNat = (s.reg x).toNat / 2 ∧
      (x ≠ VF → (t.reg VF).toNat = (s.reg x).toNat % 2) ∧ ChangesOnly { regs := [x, VF] } s t) ∧
    ∃ t, exec (.shl x y) s = .next t ∧ (t.reg x).toNat = (s.reg x).toNat * 2 % 256 ∧
      (x ≠ VF → (t.reg VF).toNat = (s.reg x).toNat / 128) ∧ ChangesOnly { regs := [x, VF] } s t

/-- R140 (b): the parameter `FLAG_WRITE_ORDER` is visible only when the result goes to the flag register (D14). -/
def Obligations.FlagWriteOrder : Prop :=
  ∀ (c : Config) (x : RegIdx) (flag result : Byte) (s : State),
    (x ≠ VF → (writeFlagged c x flag result s).reg VF = flag ∧ (writeFlagged c x flag result s).reg x = result) ∧
    (c.flagOrder = .flagThenResult → (writeFlagged c VF flag result s).reg VF = result) ∧
    (c.flagOrder = .resultThenFlag → (writeFlagged c VF flag result s).reg VF = flag)

/-- R152: every bit of the result is the bit of this step's random byte where the mask has a 1, and 0 elsewhere.
The byte is unconstrained (D31). -/
def Obligations.RandomByteIsMasked : Prop :=
  ∀ (x : RegIdx) (kk : Byte) (s : State), ∃ t, exec (.rnd x kk) s = .next t ∧
    (∀ b, (t.reg x).getLsbD b = if kk.getLsbD b then s.input.rnd.getLsbD b else false) ∧
    ChangesOnly { regs := [x] } s t

/-! ## The index register and memory -/

/-- R160: `LD I, nnn` loads the field, zero-extended. -/
def Obligations.IndexLoad : Prop :=
  ∀ (nnn : Addr) (s : State), ∃ t, exec (.ldI nnn) s = .next t ∧ t.index.toNat = nnn.toNat ∧ t.index.toNat ≤ 0x0FFF ∧
    ChangesOnly { index := true } s t

/-- R161, R162: `ADD I, Vx` modulo 65536 with no flag (D22, D28), and the glyph address on the whole byte (D9, D21). -/
def Obligations.IndexArithmetic : Prop :=
  ∀ (x : RegIdx) (s : State),
    (∃ t, exec (.addI x) s = .next t ∧ t.index.toNat = (s.index.toNat + (s.reg x).toNat) % 65536 ∧
      ChangesOnly { index := true } s t) ∧
    ∃ t, exec (.ldF x) s = .next t ∧ t.index.toNat = (parameters.fontBase.toNat + 5 * (s.reg x).toNat) % 65536 ∧
      ChangesOnly { index := true } s t

/-- R163: the three decimal digits of the byte, hundreds at `I`; no other byte changes, nor `I`, nor a register; the
three addresses are distinct. -/
def Obligations.DecimalStore : Prop :=
  ∀ (x : RegIdx) (s : State), ∃ t, exec (.ldB x) s = .next t ∧
    [ea s.index, ea (s.index + 1), ea (s.index + 2)].Nodup ∧
    100 * (t.readByte s.index).toNat + 10 * (t.readByte (s.index + 1)).toNat + (t.readByte (s.index + 2)).toNat
      = (s.reg x).toNat ∧
    (t.readByte s.index).toNat ≤ 2 ∧ (t.readByte (s.index + 1)).toNat ≤ 9 ∧ (t.readByte (s.index + 2)).toNat ≤ 9 ∧
    ChangesOnly { mem := [ea s.index, ea (s.index + 1), ea (s.index + 2)] } s t

/-- R164: `V[0]` to `V[x]` are stored from `I` on; no other byte changes, nor `I`, nor a register; the addresses are
pairwise distinct. -/
def Obligations.BlockStore : Prop :=
  ∀ (x : RegIdx) (s : State), ∃ t, exec (.storeRegs x) s = .next t ∧
    (∀ j k : RegIdx, j ≠ k → ea (byteAddr s.index j.val) ≠ ea (byteAddr s.index k.val)) ∧
    (∀ j : RegIdx, j ≤ x → t.readByte (byteAddr s.index j.val) = s.reg j) ∧
    ChangesOnly { mem := (List.range (x.val + 1)).map (fun k => ea (byteAddr s.index k)) } s t

/-- R165: `V[0]` to `V[x]` are loaded from `I` on; the registers above, memory and `I` are unchanged. -/
def Obligations.BlockLoad : Prop :=
  ∀ (x : RegIdx) (s : State), ∃ t, exec (.loadRegs x) s = .next t ∧
    (∀ j : RegIdx, j ≤ x → t.reg j = s.readByte (byteAddr s.index j.val)) ∧
    (∀ j : RegIdx, x < j → t.reg j = s.reg j) ∧
    ChangesOnly { regs := (List.range (x.val + 1)).map regAt } s t

/-- R51: an address value is reduced modulo 4096, and so is a block's, on unbounded numbers (D24). -/
def Obligations.AddressesWrapAtTheTopOfMemory : Prop :=
  ∀ (a : Word) (k : Nat), (ea a).toNat = a.toNat % 4096 ∧ (ea (byteAddr a k)).toNat = (a.toNat + k) % 4096 ∧
    ea 0x1000 = 0

/-- R52, R57, R61: a read gives the latest write to its effective address, a write changes that byte alone, and the
canonical form (log entry 6) is kept. -/
def Obligations.ReadAfterWrite : Prop :=
  ∀ (m : Memory) (a a' : Addr) (b : Byte),
    (m.write a b).read a = b ∧ (a ≠ a' → (m.write a b).read a' = m.read a') ∧ (m.wf → (m.write a b).wf)

/-- R51, R201: under the parameter `ADDR_POLICY = fault` an address value above 4095 raises `AddressFault` in the fetch
and in each instruction that reaches memory (D24). This is about the parameter, not about the default. -/
def Obligations.FaultPolicyRaisesAddressFault : Prop :=
  ∀ (c : Config) (s : State), c.addrPolicy = .fault →
    ((∃ k < 2, 4095 < (byteAddr s.pc k).toNat) → fetchIn c s = .error .addressFault) ∧
    ((∀ k < 2, (byteAddr s.pc k).toNat ≤ 4095) → fetchIn c s = .ok (fetchWord s)) ∧
    ∀ (count : Nat) (f : Nat → Byte) (x y : RegIdx) (n : BitVec 4),
      ((∃ k < count, 4095 < (byteAddr s.index k).toNat) →
        storeBlockIn c count f s = .fault .addressFault ∧ loadBlockIn c count s = .fault .addressFault) ∧
      ((∀ k < count, (byteAddr s.index k).toNat ≤ 4095) →
        storeBlockIn c count f s = storeBlockIn parameters count f s ∧
          loadBlockIn c count s = loadBlockIn parameters count s) ∧
      ((∃ k < n.toNat, 4095 < (byteAddr s.index k).toNat) → drawIn c x y n s = .fault .addressFault)

/-! ## The display -/

/-- R170: `CLS`, the word 0x00E0 alone, clears every cell and nothing else, and its step reports a display change.
That it reports one on a blank display too is D18 (R110; log entry 15). -/
def Obligations.ClearBlanksTheDisplay : Prop :=
  (∀ w : Word, decode w = .cls ↔ w = 0x00E0) ∧
  (∀ s : State, ∃ t, exec .cls s = .next t ∧ (∀ cx cy, Display.get t.disp cx cy = false) ∧
      ChangesOnly { disp := true } s t) ∧
    ∀ s : State, Runs s .cls → ∃ t o, step s = .next t ∧ t.snapshot = some o ∧ o.displayChanged = true

/-- R171 to R173: each cell is XORed with the sprite's bit there, and `VF` tells whether a set cell was cleared; the
position is read before `VF` is written (D13), `VF` starts from 0 (D15), bit 7 is the leftmost (D16). -/
def Obligations.DrawXorsTheSprite : Prop :=
  ∀ (x y : RegIdx) (n : BitVec 4) (s : State), ∃ t, exec (.drw x y n) s = .next t ∧
    (∀ cx cy, Display.get t.disp cx cy = (Display.get s.disp cx cy ^^ spriteCell s x y n cx cy)) ∧
    (t.reg VF = 1 ↔ ∃ cx cy, Display.get s.disp cx cy = true ∧ spriteCell s x y n cx cy = true) ∧
    (t.reg VF = 0 ↔ ∀ cx cy, Display.get s.disp cx cy = true → spriteCell s x y n cx cy = false) ∧
    ChangesOnly { regs := [VF], disp := true } s t

/-- R171 (e) (E5): the same sprite drawn twice at one place leaves the display as it was, and the second draw reports a
collision when the first set a pixel. The place is the same when neither position register is `VF`, which the first draw
writes. -/
def Obligations.DrawingTwiceRestoresTheDisplay : Prop :=
  ∀ (x y : RegIdx) (n : BitVec 4) (s : State), x ≠ VF → y ≠ VF →
    ∃ t u, exec (.drw x y n) s = .next t ∧ exec (.drw x y n) t = .next u ∧ u.disp = s.disp ∧
      ((∃ cx cy, Display.get s.disp cx cy = false ∧ Display.get t.disp cx cy = true) → u.reg VF = 1)

/-! ## Timers and the key wait -/

/-- R182, R183: the two timer writes change the timer alone, and the step of `LD ST, Vx` reports the new sound state. -/
def Obligations.TimerWrites : Prop :=
  (∀ (x : RegIdx) (s : State), (∃ t, exec (.ldDtVx x) s = .next t ∧ t.dt = s.reg x ∧ ChangesOnly { dt := true } s t) ∧
      ∃ t, exec (.ldStVx x) s = .next t ∧ t.st = s.reg x ∧ ChangesOnly { st := true } s t) ∧
    ∀ (x : RegIdx) (s : State), Runs s (.ldStVx x) → ∃ t o, step s = .next t ∧ t.snapshot = some o ∧
      (o.soundOn = true ↔ (deliverKey s).reg x ≠ 0)

/-- R181: in its own step `LD Vx, K` sets the stall latch and nothing else. -/
def Obligations.KeyWaitSetsTheLatch : Prop :=
  ∀ (x : RegIdx) (s : State), ∃ t, exec (.ldVxK x) s = .next t ∧ t.waiting = some x ∧
    ChangesOnly { waiting := true } s t

/-- R184: the tick comes before the instruction: a read of `DT` sees the counted-down value, a written timer is not
counted down in the writing step. -/
def Obligations.TickComesBeforeTheInstruction : Prop :=
  ∀ (s : State) (x : RegIdx),
    (Runs s (.ldVxDt x) → ∃ t, step s = .next t ∧ t.reg x = (timerGate s).dt ∧ t.dt = (timerGate s).dt) ∧
    (Runs s (.ldDtVx x) → ∃ t, step s = .next t ∧ t.dt = (deliverKey s).reg x ∧ t.st = (timerGate s).st) ∧
    (Runs s (.ldStVx x) → ∃ t, step s = .next t ∧ t.st = (deliverKey s).reg x ∧ t.dt = (timerGate s).dt)

/-! ## Reset and the invariant -/

/-- R32, R240 to R243: reset from a ROM of at most 3584 bytes gives every field its value and memory the font and the
ROM; a longer ROM is refused (D3 to D10, D33; log entries 4 and 5). -/
def Obligations.ResetLoadsTheRom : Prop :=
  (∀ (rom : List Byte) (tReset : Time), rom.length ≤ 3584 → ∃ s, construct rom tReset = .next s ∧
      (∀ j, s.reg j = 0) ∧ s.index = 0 ∧ s.pc = 0x200 ∧ s.stack = [] ∧ s.dt = 0 ∧ s.st = 0 ∧
      (∀ cx cy, Display.get s.disp cx cy = false) ∧ s.waiting = none ∧ s.lastTick = tReset ∧ s.fault = none ∧
      ∀ a : Addr, s.mem.read a =
        if a.toNat < 80 then parameters.font.getD a.toNat 0
        else if 0x200 ≤ a.toNat then rom.getD (a.toNat - 0x200) 0 else 0) ∧
    (∀ (rom : List Byte) (tReset : Time), 3584 < rom.length → construct rom tReset = .refused .romTooLong) ∧
    construct [] 0 = .next State.reset

/-- The invariant holds after every reset: canonical memory (R35 (d)), no fault, no outputs yet (log entries 3 and
6). -/
def Obligations.ResetMeetsTheInvariant : Prop :=
  Inv State.reset ∧ ∀ (rom : List Byte) (tReset : Time) (s : State), construct rom tReset = .next s → Inv s

/-- From every state with the invariant, a step that answers a next state keeps it (R34, R35; log entries 3 and 6). -/
def Obligations.EveryStepKeepsTheInvariant : Prop :=
  ∀ s t : State, Inv s → step s = .next t → Inv t
end

