-- ==== Sys2Proof/Laws/Decode.lean ====
section
/-! SUPPORT. The bits and the fields of the words the encoder's formats build (spec/30_encoding.md R71, R72). -/

namespace Sys2Proof

open Machine

theorem getLsbD_formatFA (op : BitVec 4) (nnn : Addr) (k : Nat) :
    (formatFA op nnn).getLsbD k = if k < 12 then nnn.getLsbD k else op.getLsbD (k - 12) :=
  BitVec.getLsbD_append

theorem getLsbD_formatFI (op : BitVec 4) (x : RegIdx) (kk : Byte) (k : Nat) :
    (formatFI op x kk).getLsbD k =
      if k < 8 then kk.getLsbD k
      else if k - 8 < 4 then (BitVec.ofFin x : BitVec 4).getLsbD (k - 8) else op.getLsbD (k - 8 - 4) := by
  rw [show (formatFI op x kk).getLsbD k = if k < 8 then kk.getLsbD k
    else (op ++ (BitVec.ofFin x : BitVec 4)).getLsbD (k - 8) from BitVec.getLsbD_append, BitVec.getLsbD_append]

theorem getLsbD_formatFR (op : BitVec 4) (x y : RegIdx) (n : BitVec 4) (k : Nat) :
    (formatFR op x y n).getLsbD k =
      if k < 4 then n.getLsbD k
      else if k - 4 < 4 then (BitVec.ofFin y : BitVec 4).getLsbD (k - 4)
      else if k - 4 - 4 < 4 then (BitVec.ofFin x : BitVec 4).getLsbD (k - 4 - 4) else op.getLsbD (k - 4 - 4 - 4) := by
  rw [show (formatFR op x y n).getLsbD k = if k < 4 then n.getLsbD k
    else (op ++ (BitVec.ofFin x : BitVec 4) ++ (BitVec.ofFin y : BitVec 4)).getLsbD (k - 4) from BitVec.getLsbD_append,
    BitVec.getLsbD_append, BitVec.getLsbD_append]

theorem formatFX_eq (op : BitVec 4) (x : RegIdx) (sel : Byte) : formatFX op x sel = formatFI op x sel := rfl

@[simp] theorem opField_formatFA (op : BitVec 4) (nnn : Addr) :
    opField (formatFA op nnn) = op := by
  unfold opField
  refine BitVec.eq_of_getLsbD_eq fun i hi => ?_
  have h : i < 4 := by omega
  simp only [BitVec.getLsbD_extractLsb', getLsbD_formatFA]
  interval_cases i <;> rfl

@[simp] theorem nnnField_formatFA (op : BitVec 4) (nnn : Addr) :
    nnnField (formatFA op nnn) = nnn := by
  unfold nnnField
  refine BitVec.eq_of_getLsbD_eq fun i hi => ?_
  have h : i < 12 := by omega
  simp only [BitVec.getLsbD_extractLsb', getLsbD_formatFA]
  interval_cases i <;> rfl

@[simp] theorem opField_formatFI (op : BitVec 4) (x : RegIdx) (kk : Byte) :
    opField (formatFI op x kk) = op := by
  unfold opField
  refine BitVec.eq_of_getLsbD_eq fun i hi => ?_
  have h : i < 4 := by omega
  simp only [BitVec.getLsbD_extractLsb', getLsbD_formatFI]
  interval_cases i <;> rfl

@[simp] theorem xField_formatFI (op : BitVec 4) (x : RegIdx) (kk : Byte) :
    xField (formatFI op x kk) = x := by
  refine congrArg BitVec.toFin (a₁ := BitVec.extractLsb' 8 4 _) (a₂ := BitVec.ofFin x) ?_
  refine BitVec.eq_of_getLsbD_eq fun i hi => ?_
  have h : i < 4 := by omega
  simp only [BitVec.getLsbD_extractLsb', getLsbD_formatFI]
  interval_cases i <;> rfl

@[simp] theorem kkField_formatFI (op : BitVec 4) (x : RegIdx) (kk : Byte) :
    kkField (formatFI op x kk) = kk := by
  unfold kkField
  refine BitVec.eq_of_getLsbD_eq fun i hi => ?_
  have h : i < 8 := by omega
  simp only [BitVec.getLsbD_extractLsb', getLsbD_formatFI]
  interval_cases i <;> rfl

@[simp] theorem opField_formatFX (op : BitVec 4) (x : RegIdx) (kk : Byte) :
    opField (formatFX op x kk) = op := by
  rw [formatFX_eq, opField_formatFI]

@[simp] theorem xField_formatFX (op : BitVec 4) (x : RegIdx) (kk : Byte) :
    xField (formatFX op x kk) = x := by
  rw [formatFX_eq, xField_formatFI]

@[simp] theorem kkField_formatFX (op : BitVec 4) (x : RegIdx) (kk : Byte) :
    kkField (formatFX op x kk) = kk := by
  rw [formatFX_eq, kkField_formatFI]

@[simp] theorem opField_formatFR (op : BitVec 4) (x y : RegIdx) (n : BitVec 4) :
    opField (formatFR op x y n) = op := by
  unfold opField
  refine BitVec.eq_of_getLsbD_eq fun i hi => ?_
  have h : i < 4 := by omega
  simp only [BitVec.getLsbD_extractLsb', getLsbD_formatFR]
  interval_cases i <;> rfl

@[simp] theorem xField_formatFR (op : BitVec 4) (x y : RegIdx) (n : BitVec 4) :
    xField (formatFR op x y n) = x := by
  refine congrArg BitVec.toFin (a₁ := BitVec.extractLsb' 8 4 _) (a₂ := BitVec.ofFin x) ?_
  refine BitVec.eq_of_getLsbD_eq fun i hi => ?_
  have h : i < 4 := by omega
  simp only [BitVec.getLsbD_extractLsb', getLsbD_formatFR]
  interval_cases i <;> rfl

@[simp] theorem yField_formatFR (op : BitVec 4) (x y : RegIdx) (n : BitVec 4) :
    yField (formatFR op x y n) = y := by
  refine congrArg BitVec.toFin (a₁ := BitVec.extractLsb' 4 4 _) (a₂ := BitVec.ofFin y) ?_
  refine BitVec.eq_of_getLsbD_eq fun i hi => ?_
  have h : i < 4 := by omega
  simp only [BitVec.getLsbD_extractLsb', getLsbD_formatFR]
  interval_cases i <;> rfl

@[simp] theorem nField_formatFR (op : BitVec 4) (x y : RegIdx) (n : BitVec 4) :
    nField (formatFR op x y n) = n := by
  unfold nField
  refine BitVec.eq_of_getLsbD_eq fun i hi => ?_
  have h : i < 4 := by omega
  simp only [BitVec.getLsbD_extractLsb', getLsbD_formatFR]
  interval_cases i <;> rfl

theorem formatFA_and_F000 (op : BitVec 4) (nnn : Addr) : formatFA op nnn &&& 0xF000#16 = formatFA op 0 := by
  refine BitVec.eq_of_getLsbD_eq fun i hi => ?_
  rw [BitVec.getLsbD_and]
  simp only [getLsbD_formatFA]
  interval_cases i <;> first | exact Bool.and_true _ | exact Bool.and_false _

theorem formatFI_and_F000 (op : BitVec 4) (x : RegIdx) (kk : Byte) : formatFI op x kk &&& 0xF000#16 = formatFA op 0 := by
  refine BitVec.eq_of_getLsbD_eq fun i hi => ?_
  rw [BitVec.getLsbD_and]
  simp only [getLsbD_formatFA, getLsbD_formatFI]
  interval_cases i <;> first | exact Bool.and_true _ | exact Bool.and_false _

theorem formatFI_and_F0FF (op : BitVec 4) (x : RegIdx) (kk : Byte) : formatFI op x kk &&& 0xF0FF#16 = formatFI op 0 kk := by
  refine BitVec.eq_of_getLsbD_eq fun i hi => ?_
  rw [BitVec.getLsbD_and]
  simp only [getLsbD_formatFI]
  interval_cases i <;> first | exact Bool.and_true _ | exact Bool.and_false _

theorem formatFR_and_F000 (op : BitVec 4) (x y : RegIdx) (n : BitVec 4) : formatFR op x y n &&& 0xF000#16 = formatFA op 0 := by
  refine BitVec.eq_of_getLsbD_eq fun i hi => ?_
  rw [BitVec.getLsbD_and]
  simp only [getLsbD_formatFA, getLsbD_formatFR]
  interval_cases i <;> first | exact Bool.and_true _ | exact Bool.and_false _

theorem formatFR_and_F00F (op : BitVec 4) (x y : RegIdx) (n : BitVec 4) : formatFR op x y n &&& 0xF00F#16 = formatFR op 0 0 n := by
  refine BitVec.eq_of_getLsbD_eq fun i hi => ?_
  rw [BitVec.getLsbD_and]
  simp only [getLsbD_formatFR]
  interval_cases i <;> first | exact Bool.and_true _ | exact Bool.and_false _

/-- A word is what its fields make: no bit is dropped (R71, R72). -/
theorem word_eq_formatFA (w : Word) : w = formatFA (opField w) (nnnField w) := by
  refine BitVec.eq_of_getLsbD_eq fun i hi => ?_
  rw [getLsbD_formatFA]
  unfold opField nnnField
  simp only [BitVec.getLsbD_extractLsb']
  interval_cases i <;> simp

/-- The same, field by field of `FI`. -/
theorem word_eq_formatFI (w : Word) : w = formatFI (opField w) (xField w) (kkField w) := by
  refine BitVec.eq_of_getLsbD_eq fun i hi => ?_
  rw [getLsbD_formatFI]
  unfold opField xField kkField
  rw [show (BitVec.ofFin (w.extractLsb' 8 4).toFin : BitVec 4) = w.extractLsb' 8 4 from rfl]
  simp only [BitVec.getLsbD_extractLsb']
  interval_cases i <;> simp

/-- The same, field by field of `FR`. -/
theorem word_eq_formatFR (w : Word) : w = formatFR (opField w) (xField w) (yField w) (nField w) := by
  refine BitVec.eq_of_getLsbD_eq fun i hi => ?_
  rw [getLsbD_formatFR]
  unfold opField xField yField nField
  rw [show (BitVec.ofFin (w.extractLsb' 8 4).toFin : BitVec 4) = w.extractLsb' 8 4 from rfl,
    show (BitVec.ofFin (w.extractLsb' 4 4).toFin : BitVec 4) = w.extractLsb' 4 4 from rfl]
  simp only [BitVec.getLsbD_extractLsb']
  interval_cases i <;> simp

end Sys2Proof
end

