-- ==== Sys2Proof/Laws/State.lean ====
section
/-! SUPPORT. One lemma per field per update of the state, so that no later proof unfolds a record update. -/

namespace Sys2Proof.Machine

variable (s : State)

/-! ### `setReg` -/

@[simp] theorem State.setReg_v (j : RegIdx) (b : Byte) : (s.setReg j b).v = s.v.set j b := rfl
@[simp] theorem State.setReg_index (j : RegIdx) (b : Byte) : (s.setReg j b).index = s.index := rfl
@[simp] theorem State.setReg_pc (j : RegIdx) (b : Byte) : (s.setReg j b).pc = s.pc := rfl
@[simp] theorem State.setReg_stack (j : RegIdx) (b : Byte) : (s.setReg j b).stack = s.stack := rfl
@[simp] theorem State.setReg_dt (j : RegIdx) (b : Byte) : (s.setReg j b).dt = s.dt := rfl
@[simp] theorem State.setReg_st (j : RegIdx) (b : Byte) : (s.setReg j b).st = s.st := rfl
@[simp] theorem State.setReg_mem (j : RegIdx) (b : Byte) : (s.setReg j b).mem = s.mem := rfl
@[simp] theorem State.setReg_disp (j : RegIdx) (b : Byte) : (s.setReg j b).disp = s.disp := rfl
@[simp] theorem State.setReg_waiting (j : RegIdx) (b : Byte) : (s.setReg j b).waiting = s.waiting := rfl
@[simp] theorem State.setReg_lastTick (j : RegIdx) (b : Byte) : (s.setReg j b).lastTick = s.lastTick := rfl
@[simp] theorem State.setReg_fault (j : RegIdx) (b : Byte) : (s.setReg j b).fault = s.fault := rfl
@[simp] theorem State.setReg_inputs (j : RegIdx) (b : Byte) : (s.setReg j b).inputs = s.inputs := rfl
@[simp] theorem State.setReg_stepNo (j : RegIdx) (b : Byte) : (s.setReg j b).stepNo = s.stepNo := rfl
@[simp] theorem State.setReg_snapshot (j : RegIdx) (b : Byte) : (s.setReg j b).snapshot = s.snapshot := rfl
@[simp] theorem State.setReg_input (j : RegIdx) (b : Byte) : (s.setReg j b).input = s.input := rfl

/-! ### `setIndex` -/

@[simp] theorem State.setIndex_v (a : Word) : (s.setIndex a).v = s.v := rfl
@[simp] theorem State.setIndex_index (a : Word) : (s.setIndex a).index = a := rfl
@[simp] theorem State.setIndex_pc (a : Word) : (s.setIndex a).pc = s.pc := rfl
@[simp] theorem State.setIndex_stack (a : Word) : (s.setIndex a).stack = s.stack := rfl
@[simp] theorem State.setIndex_dt (a : Word) : (s.setIndex a).dt = s.dt := rfl
@[simp] theorem State.setIndex_st (a : Word) : (s.setIndex a).st = s.st := rfl
@[simp] theorem State.setIndex_mem (a : Word) : (s.setIndex a).mem = s.mem := rfl
@[simp] theorem State.setIndex_disp (a : Word) : (s.setIndex a).disp = s.disp := rfl
@[simp] theorem State.setIndex_waiting (a : Word) : (s.setIndex a).waiting = s.waiting := rfl
@[simp] theorem State.setIndex_lastTick (a : Word) : (s.setIndex a).lastTick = s.lastTick := rfl
@[simp] theorem State.setIndex_fault (a : Word) : (s.setIndex a).fault = s.fault := rfl
@[simp] theorem State.setIndex_inputs (a : Word) : (s.setIndex a).inputs = s.inputs := rfl
@[simp] theorem State.setIndex_stepNo (a : Word) : (s.setIndex a).stepNo = s.stepNo := rfl
@[simp] theorem State.setIndex_snapshot (a : Word) : (s.setIndex a).snapshot = s.snapshot := rfl
@[simp] theorem State.setIndex_reg (a : Word) (k : RegIdx) : (s.setIndex a).reg k = s.reg k := rfl
@[simp] theorem State.setIndex_input (a : Word) : (s.setIndex a).input = s.input := rfl

/-! ### `setPc` -/

@[simp] theorem State.setPc_v (a : Word) : (s.setPc a).v = s.v := rfl
@[simp] theorem State.setPc_index (a : Word) : (s.setPc a).index = s.index := rfl
@[simp] theorem State.setPc_pc (a : Word) : (s.setPc a).pc = a := rfl
@[simp] theorem State.setPc_stack (a : Word) : (s.setPc a).stack = s.stack := rfl
@[simp] theorem State.setPc_dt (a : Word) : (s.setPc a).dt = s.dt := rfl
@[simp] theorem State.setPc_st (a : Word) : (s.setPc a).st = s.st := rfl
@[simp] theorem State.setPc_mem (a : Word) : (s.setPc a).mem = s.mem := rfl
@[simp] theorem State.setPc_disp (a : Word) : (s.setPc a).disp = s.disp := rfl
@[simp] theorem State.setPc_waiting (a : Word) : (s.setPc a).waiting = s.waiting := rfl
@[simp] theorem State.setPc_lastTick (a : Word) : (s.setPc a).lastTick = s.lastTick := rfl
@[simp] theorem State.setPc_fault (a : Word) : (s.setPc a).fault = s.fault := rfl
@[simp] theorem State.setPc_inputs (a : Word) : (s.setPc a).inputs = s.inputs := rfl
@[simp] theorem State.setPc_stepNo (a : Word) : (s.setPc a).stepNo = s.stepNo := rfl
@[simp] theorem State.setPc_snapshot (a : Word) : (s.setPc a).snapshot = s.snapshot := rfl
@[simp] theorem State.setPc_reg (a : Word) (k : RegIdx) : (s.setPc a).reg k = s.reg k := rfl
@[simp] theorem State.setPc_input (a : Word) : (s.setPc a).input = s.input := rfl

/-! ### `setDt` -/

@[simp] theorem State.setDt_v (b : Byte) : (s.setDt b).v = s.v := rfl
@[simp] theorem State.setDt_index (b : Byte) : (s.setDt b).index = s.index := rfl
@[simp] theorem State.setDt_pc (b : Byte) : (s.setDt b).pc = s.pc := rfl
@[simp] theorem State.setDt_stack (b : Byte) : (s.setDt b).stack = s.stack := rfl
@[simp] theorem State.setDt_dt (b : Byte) : (s.setDt b).dt = b := rfl
@[simp] theorem State.setDt_st (b : Byte) : (s.setDt b).st = s.st := rfl
@[simp] theorem State.setDt_mem (b : Byte) : (s.setDt b).mem = s.mem := rfl
@[simp] theorem State.setDt_disp (b : Byte) : (s.setDt b).disp = s.disp := rfl
@[simp] theorem State.setDt_waiting (b : Byte) : (s.setDt b).waiting = s.waiting := rfl
@[simp] theorem State.setDt_lastTick (b : Byte) : (s.setDt b).lastTick = s.lastTick := rfl
@[simp] theorem State.setDt_fault (b : Byte) : (s.setDt b).fault = s.fault := rfl
@[simp] theorem State.setDt_inputs (b : Byte) : (s.setDt b).inputs = s.inputs := rfl
@[simp] theorem State.setDt_stepNo (b : Byte) : (s.setDt b).stepNo = s.stepNo := rfl
@[simp] theorem State.setDt_snapshot (b : Byte) : (s.setDt b).snapshot = s.snapshot := rfl
@[simp] theorem State.setDt_reg (b : Byte) (k : RegIdx) : (s.setDt b).reg k = s.reg k := rfl
@[simp] theorem State.setDt_input (b : Byte) : (s.setDt b).input = s.input := rfl

/-! ### `setSt` -/

@[simp] theorem State.setSt_v (b : Byte) : (s.setSt b).v = s.v := rfl
@[simp] theorem State.setSt_index (b : Byte) : (s.setSt b).index = s.index := rfl
@[simp] theorem State.setSt_pc (b : Byte) : (s.setSt b).pc = s.pc := rfl
@[simp] theorem State.setSt_stack (b : Byte) : (s.setSt b).stack = s.stack := rfl
@[simp] theorem State.setSt_dt (b : Byte) : (s.setSt b).dt = s.dt := rfl
@[simp] theorem State.setSt_st (b : Byte) : (s.setSt b).st = b := rfl
@[simp] theorem State.setSt_mem (b : Byte) : (s.setSt b).mem = s.mem := rfl
@[simp] theorem State.setSt_disp (b : Byte) : (s.setSt b).disp = s.disp := rfl
@[simp] theorem State.setSt_waiting (b : Byte) : (s.setSt b).waiting = s.waiting := rfl
@[simp] theorem State.setSt_lastTick (b : Byte) : (s.setSt b).lastTick = s.lastTick := rfl
@[simp] theorem State.setSt_fault (b : Byte) : (s.setSt b).fault = s.fault := rfl
@[simp] theorem State.setSt_inputs (b : Byte) : (s.setSt b).inputs = s.inputs := rfl
@[simp] theorem State.setSt_stepNo (b : Byte) : (s.setSt b).stepNo = s.stepNo := rfl
@[simp] theorem State.setSt_snapshot (b : Byte) : (s.setSt b).snapshot = s.snapshot := rfl
@[simp] theorem State.setSt_reg (b : Byte) (k : RegIdx) : (s.setSt b).reg k = s.reg k := rfl
@[simp] theorem State.setSt_input (b : Byte) : (s.setSt b).input = s.input := rfl

/-! ### `setStack` -/

@[simp] theorem State.setStack_v (l : List Word) : (s.setStack l).v = s.v := rfl
@[simp] theorem State.setStack_index (l : List Word) : (s.setStack l).index = s.index := rfl
@[simp] theorem State.setStack_pc (l : List Word) : (s.setStack l).pc = s.pc := rfl
@[simp] theorem State.setStack_stack (l : List Word) : (s.setStack l).stack = l := rfl
@[simp] theorem State.setStack_dt (l : List Word) : (s.setStack l).dt = s.dt := rfl
@[simp] theorem State.setStack_st (l : List Word) : (s.setStack l).st = s.st := rfl
@[simp] theorem State.setStack_mem (l : List Word) : (s.setStack l).mem = s.mem := rfl
@[simp] theorem State.setStack_disp (l : List Word) : (s.setStack l).disp = s.disp := rfl
@[simp] theorem State.setStack_waiting (l : List Word) : (s.setStack l).waiting = s.waiting := rfl
@[simp] theorem State.setStack_lastTick (l : List Word) : (s.setStack l).lastTick = s.lastTick := rfl
@[simp] theorem State.setStack_fault (l : List Word) : (s.setStack l).fault = s.fault := rfl
@[simp] theorem State.setStack_inputs (l : List Word) : (s.setStack l).inputs = s.inputs := rfl
@[simp] theorem State.setStack_stepNo (l : List Word) : (s.setStack l).stepNo = s.stepNo := rfl
@[simp] theorem State.setStack_snapshot (l : List Word) : (s.setStack l).snapshot = s.snapshot := rfl
@[simp] theorem State.setStack_reg (l : List Word) (k : RegIdx) : (s.setStack l).reg k = s.reg k := rfl
@[simp] theorem State.setStack_input (l : List Word) : (s.setStack l).input = s.input := rfl

/-! ### `setMem` -/

@[simp] theorem State.setMem_v (m : Memory) : (s.setMem m).v = s.v := rfl
@[simp] theorem State.setMem_index (m : Memory) : (s.setMem m).index = s.index := rfl
@[simp] theorem State.setMem_pc (m : Memory) : (s.setMem m).pc = s.pc := rfl
@[simp] theorem State.setMem_stack (m : Memory) : (s.setMem m).stack = s.stack := rfl
@[simp] theorem State.setMem_dt (m : Memory) : (s.setMem m).dt = s.dt := rfl
@[simp] theorem State.setMem_st (m : Memory) : (s.setMem m).st = s.st := rfl
@[simp] theorem State.setMem_mem (m : Memory) : (s.setMem m).mem = m := rfl
@[simp] theorem State.setMem_disp (m : Memory) : (s.setMem m).disp = s.disp := rfl
@[simp] theorem State.setMem_waiting (m : Memory) : (s.setMem m).waiting = s.waiting := rfl
@[simp] theorem State.setMem_lastTick (m : Memory) : (s.setMem m).lastTick = s.lastTick := rfl
@[simp] theorem State.setMem_fault (m : Memory) : (s.setMem m).fault = s.fault := rfl
@[simp] theorem State.setMem_inputs (m : Memory) : (s.setMem m).inputs = s.inputs := rfl
@[simp] theorem State.setMem_stepNo (m : Memory) : (s.setMem m).stepNo = s.stepNo := rfl
@[simp] theorem State.setMem_snapshot (m : Memory) : (s.setMem m).snapshot = s.snapshot := rfl
@[simp] theorem State.setMem_reg (m : Memory) (k : RegIdx) : (s.setMem m).reg k = s.reg k := rfl
@[simp] theorem State.setMem_input (m : Memory) : (s.setMem m).input = s.input := rfl

/-! ### `setDisp` -/

@[simp] theorem State.setDisp_v (d : Display) : (s.setDisp d).v = s.v := rfl
@[simp] theorem State.setDisp_index (d : Display) : (s.setDisp d).index = s.index := rfl
@[simp] theorem State.setDisp_pc (d : Display) : (s.setDisp d).pc = s.pc := rfl
@[simp] theorem State.setDisp_stack (d : Display) : (s.setDisp d).stack = s.stack := rfl
@[simp] theorem State.setDisp_dt (d : Display) : (s.setDisp d).dt = s.dt := rfl
@[simp] theorem State.setDisp_st (d : Display) : (s.setDisp d).st = s.st := rfl
@[simp] theorem State.setDisp_mem (d : Display) : (s.setDisp d).mem = s.mem := rfl
@[simp] theorem State.setDisp_disp (d : Display) : (s.setDisp d).disp = d := rfl
@[simp] theorem State.setDisp_waiting (d : Display) : (s.setDisp d).waiting = s.waiting := rfl
@[simp] theorem State.setDisp_lastTick (d : Display) : (s.setDisp d).lastTick = s.lastTick := rfl
@[simp] theorem State.setDisp_fault (d : Display) : (s.setDisp d).fault = s.fault := rfl
@[simp] theorem State.setDisp_inputs (d : Display) : (s.setDisp d).inputs = s.inputs := rfl
@[simp] theorem State.setDisp_stepNo (d : Display) : (s.setDisp d).stepNo = s.stepNo := rfl
@[simp] theorem State.setDisp_snapshot (d : Display) : (s.setDisp d).snapshot = s.snapshot := rfl
@[simp] theorem State.setDisp_reg (d : Display) (k : RegIdx) : (s.setDisp d).reg k = s.reg k := rfl
@[simp] theorem State.setDisp_input (d : Display) : (s.setDisp d).input = s.input := rfl

/-! ### `setWaiting` -/

@[simp] theorem State.setWaiting_v (w : Option RegIdx) : (s.setWaiting w).v = s.v := rfl
@[simp] theorem State.setWaiting_index (w : Option RegIdx) : (s.setWaiting w).index = s.index := rfl
@[simp] theorem State.setWaiting_pc (w : Option RegIdx) : (s.setWaiting w).pc = s.pc := rfl
@[simp] theorem State.setWaiting_stack (w : Option RegIdx) : (s.setWaiting w).stack = s.stack := rfl
@[simp] theorem State.setWaiting_dt (w : Option RegIdx) : (s.setWaiting w).dt = s.dt := rfl
@[simp] theorem State.setWaiting_st (w : Option RegIdx) : (s.setWaiting w).st = s.st := rfl
@[simp] theorem State.setWaiting_mem (w : Option RegIdx) : (s.setWaiting w).mem = s.mem := rfl
@[simp] theorem State.setWaiting_disp (w : Option RegIdx) : (s.setWaiting w).disp = s.disp := rfl
@[simp] theorem State.setWaiting_waiting (w : Option RegIdx) : (s.setWaiting w).waiting = w := rfl
@[simp] theorem State.setWaiting_lastTick (w : Option RegIdx) : (s.setWaiting w).lastTick = s.lastTick := rfl
@[simp] theorem State.setWaiting_fault (w : Option RegIdx) : (s.setWaiting w).fault = s.fault := rfl
@[simp] theorem State.setWaiting_inputs (w : Option RegIdx) : (s.setWaiting w).inputs = s.inputs := rfl
@[simp] theorem State.setWaiting_stepNo (w : Option RegIdx) : (s.setWaiting w).stepNo = s.stepNo := rfl
@[simp] theorem State.setWaiting_snapshot (w : Option RegIdx) : (s.setWaiting w).snapshot = s.snapshot := rfl
@[simp] theorem State.setWaiting_reg (w : Option RegIdx) (k : RegIdx) : (s.setWaiting w).reg k = s.reg k := rfl
@[simp] theorem State.setWaiting_input (w : Option RegIdx) : (s.setWaiting w).input = s.input := rfl

/-! ### `report`, `nextInput`, `latchFault`, `advancePc` -/

@[simp] theorem report_v (c w : Bool) : (report c w s).v = s.v := rfl
@[simp] theorem report_index (c w : Bool) : (report c w s).index = s.index := rfl
@[simp] theorem report_pc (c w : Bool) : (report c w s).pc = s.pc := rfl
@[simp] theorem report_stack (c w : Bool) : (report c w s).stack = s.stack := rfl
@[simp] theorem report_dt (c w : Bool) : (report c w s).dt = s.dt := rfl
@[simp] theorem report_st (c w : Bool) : (report c w s).st = s.st := rfl
@[simp] theorem report_mem (c w : Bool) : (report c w s).mem = s.mem := rfl
@[simp] theorem report_disp (c w : Bool) : (report c w s).disp = s.disp := rfl
@[simp] theorem report_waiting (c w : Bool) : (report c w s).waiting = s.waiting := rfl
@[simp] theorem report_lastTick (c w : Bool) : (report c w s).lastTick = s.lastTick := rfl
@[simp] theorem report_fault (c w : Bool) : (report c w s).fault = s.fault := rfl
@[simp] theorem report_inputs (c w : Bool) : (report c w s).inputs = s.inputs := rfl
@[simp] theorem report_stepNo (c w : Bool) : (report c w s).stepNo = s.stepNo := rfl
@[simp] theorem report_snapshot (c w : Bool) : (report c w s).snapshot = some (snapshotOf c w s) := rfl
@[simp] theorem report_reg (c w : Bool) (k : RegIdx) : (report c w s).reg k = s.reg k := rfl

@[simp] theorem nextInput_v : (nextInput s).v = s.v := rfl
@[simp] theorem nextInput_index : (nextInput s).index = s.index := rfl
@[simp] theorem nextInput_pc : (nextInput s).pc = s.pc := rfl
@[simp] theorem nextInput_stack : (nextInput s).stack = s.stack := rfl
@[simp] theorem nextInput_dt : (nextInput s).dt = s.dt := rfl
@[simp] theorem nextInput_st : (nextInput s).st = s.st := rfl
@[simp] theorem nextInput_mem : (nextInput s).mem = s.mem := rfl
@[simp] theorem nextInput_disp : (nextInput s).disp = s.disp := rfl
@[simp] theorem nextInput_waiting : (nextInput s).waiting = s.waiting := rfl
@[simp] theorem nextInput_lastTick : (nextInput s).lastTick = s.lastTick := rfl
@[simp] theorem nextInput_fault : (nextInput s).fault = s.fault := rfl
@[simp] theorem nextInput_inputs : (nextInput s).inputs = s.inputs.tail := rfl
@[simp] theorem nextInput_stepNo : (nextInput s).stepNo = s.stepNo + 1 := rfl
@[simp] theorem nextInput_snapshot : (nextInput s).snapshot = s.snapshot := rfl
@[simp] theorem nextInput_reg (k : RegIdx) : (nextInput s).reg k = s.reg k := rfl

@[simp] theorem latchFault_v (f : Fault) : (latchFault f s).v = s.v := rfl
@[simp] theorem latchFault_index (f : Fault) : (latchFault f s).index = s.index := rfl
@[simp] theorem latchFault_pc (f : Fault) : (latchFault f s).pc = s.pc := rfl
@[simp] theorem latchFault_stack (f : Fault) : (latchFault f s).stack = s.stack := rfl
@[simp] theorem latchFault_dt (f : Fault) : (latchFault f s).dt = s.dt := rfl
@[simp] theorem latchFault_st (f : Fault) : (latchFault f s).st = s.st := rfl
@[simp] theorem latchFault_mem (f : Fault) : (latchFault f s).mem = s.mem := rfl
@[simp] theorem latchFault_disp (f : Fault) : (latchFault f s).disp = s.disp := rfl
@[simp] theorem latchFault_waiting (f : Fault) : (latchFault f s).waiting = s.waiting := rfl
@[simp] theorem latchFault_lastTick (f : Fault) : (latchFault f s).lastTick = s.lastTick := rfl
@[simp] theorem latchFault_fault (f : Fault) : (latchFault f s).fault = some f := rfl
@[simp] theorem latchFault_inputs (f : Fault) : (latchFault f s).inputs = s.inputs := rfl
@[simp] theorem latchFault_stepNo (f : Fault) : (latchFault f s).stepNo = s.stepNo := rfl
@[simp] theorem latchFault_snapshot (f : Fault) : (latchFault f s).snapshot = none := rfl
@[simp] theorem latchFault_reg (f : Fault) (k : RegIdx) : (latchFault f s).reg k = s.reg k := rfl

@[simp] theorem advancePc_eq : advancePc s = s.setPc (s.pc + 2) := rfl

/-! ### `timerGateIn` -/

@[simp] theorem timerGateIn_v (c : Config) : (timerGateIn c s).v = s.v := rfl
@[simp] theorem timerGateIn_index (c : Config) : (timerGateIn c s).index = s.index := rfl
@[simp] theorem timerGateIn_pc (c : Config) : (timerGateIn c s).pc = s.pc := rfl
@[simp] theorem timerGateIn_stack (c : Config) : (timerGateIn c s).stack = s.stack := rfl
@[simp] theorem timerGateIn_dt (c : Config) : (timerGateIn c s).dt = (if tickDue c s then countDown s.dt else s.dt) := rfl
@[simp] theorem timerGateIn_st (c : Config) : (timerGateIn c s).st = (if tickDue c s then countDown s.st else s.st) := rfl
@[simp] theorem timerGateIn_mem (c : Config) : (timerGateIn c s).mem = s.mem := rfl
@[simp] theorem timerGateIn_disp (c : Config) : (timerGateIn c s).disp = s.disp := rfl
@[simp] theorem timerGateIn_waiting (c : Config) : (timerGateIn c s).waiting = s.waiting := rfl
@[simp] theorem timerGateIn_lastTick (c : Config) : (timerGateIn c s).lastTick = (if tickDue c s then s.input.now else s.lastTick) := rfl
@[simp] theorem timerGateIn_fault (c : Config) : (timerGateIn c s).fault = s.fault := rfl
@[simp] theorem timerGateIn_inputs (c : Config) : (timerGateIn c s).inputs = s.inputs := rfl
@[simp] theorem timerGateIn_stepNo (c : Config) : (timerGateIn c s).stepNo = s.stepNo := rfl
@[simp] theorem timerGateIn_snapshot (c : Config) : (timerGateIn c s).snapshot = s.snapshot := rfl
@[simp] theorem timerGateIn_reg (c : Config) (k : RegIdx) : (timerGateIn c s).reg k = s.reg k := rfl
@[simp] theorem timerGateIn_input (c : Config) : (timerGateIn c s).input = s.input := rfl

/-! ### The outputs -/

@[simp] theorem snapshotOf_display (c w : Bool) : (snapshotOf c w s).display = s.disp := rfl
@[simp] theorem snapshotOf_displayChanged (c w : Bool) : (snapshotOf c w s).displayChanged = c := rfl
@[simp] theorem snapshotOf_soundOn (c w : Bool) : (snapshotOf c w s).soundOn = (s.st != 0) := rfl
@[simp] theorem snapshotOf_waiting (c w : Bool) : (snapshotOf c w s).waiting = w := rfl

end Sys2Proof.Machine
end

