-- ==== Sys2Proof/Laws/Memory.lean ====
section
/-! SUPPORT. Laws of memory: a read after a write, the canonical form, and what a block of writes leaves. -/

namespace Sys2Proof.Machine

/-! ## One cell -/

theorem Memory.readAt_insertAt (m : Memory) (a a' : Nat) (b : Byte) :
    (m.insertAt a b).readAt a' = if a = a' then b else m.readAt a' := by
  induction m with
  | nil => rfl
  | cons c rest ih =>
    obtain ⟨k, v⟩ := c
    simp only [Memory.insertAt]
    split_ifs with h1 h2 h3 h3 h3 <;> simp_all [Memory.readAt]
    exact fun h => absurd h.symm ‹_›

theorem Memory.readAt_filter (m : Memory) (a a' : Nat) :
    Memory.readAt (m.filter (fun p => p.1 != a)) a' = if a = a' then Memory.background a' else m.readAt a' := by
  induction m with
  | nil => simp [Memory.readAt]
  | cons c rest ih =>
    obtain ⟨k, v⟩ := c
    by_cases hk : k = a
    · subst hk
      by_cases ha : k = a' <;> simp_all [Memory.readAt]
    · by_cases ha : a = a'
      · subst ha
        simp_all [Memory.readAt]
      · simp_all [Memory.readAt]

/-- A read after a write: the byte written at its address, what was there before at every other. -/
theorem Memory.readAt_writeAt (m : Memory) (a a' : Nat) (b : Byte) :
    (m.writeAt a b).readAt a' = if a = a' then b else m.readAt a' := by
  unfold Memory.writeAt
  split_ifs with hb h h
  · subst h; rw [Memory.readAt_filter, if_pos rfl, hb]
  · rw [Memory.readAt_filter, if_neg h]
  · rw [Memory.readAt_insertAt, if_pos h]
  · rw [Memory.readAt_insertAt, if_neg h]

/-- The same at effective addresses. -/
theorem Memory.read_write (m : Memory) (a a' : Addr) (b : Byte) :
    (m.write a b).read a' = if a = a' then b else m.read a' := by
  simp [Memory.read, Memory.write, Memory.readAt_writeAt, BitVec.toNat_inj]

@[simp] theorem Memory.read_write_same (m : Memory) (a : Addr) (b : Byte) : (m.write a b).read a = b := by
  simp [Memory.read_write]

theorem Memory.read_write_ne (m : Memory) {a a' : Addr} (h : a ≠ a') (b : Byte) :
    (m.write a b).read a' = m.read a' := by
  simp [Memory.read_write, h]

/-! ## The canonical form -/

theorem Memory.wf_nil : Memory.wf [] := ⟨.nil, by simp⟩

theorem Memory.keys_insertAt (m : Memory) (a : Nat) (b : Byte) {p : Host.Cell} (hp : p ∈ m.insertAt a b) :
    p = (a, b) ∨ p ∈ m := by
  induction m with
  | nil => simpa [Memory.insertAt] using hp
  | cons c rest ih =>
    simp only [Memory.insertAt] at hp
    split_ifs at hp
    · simpa using hp
    · simp only [List.mem_cons] at hp ⊢; tauto
    · simp only [List.mem_cons] at hp ⊢
      rcases hp with h | h
      · exact .inr (.inl h)
      · rcases ih h with h | h <;> tauto

theorem Memory.pairwise_insertAt (m : Memory) (a : Nat) (b : Byte)
    (h : m.Pairwise (fun p q => p.1 < q.1)) : (m.insertAt a b).Pairwise (fun p q => p.1 < q.1) := by
  induction m with
  | nil => simp [Memory.insertAt]
  | cons c rest ih =>
    obtain ⟨hc, hr⟩ := List.pairwise_cons.1 h
    simp only [Memory.insertAt]
    split_ifs with h1 h2
    · refine List.pairwise_cons.2 ⟨fun p hp => ?_, h⟩
      rcases List.mem_cons.1 hp with rfl | hp
      · exact h1
      · exact h1.trans (hc p hp)
    · exact List.pairwise_cons.2 ⟨fun p hp => h2 ▸ hc p hp, hr⟩
    · refine List.pairwise_cons.2 ⟨fun p hp => ?_, ih hr⟩
      rcases Memory.keys_insertAt rest a b hp with rfl | hp
      · exact lt_of_le_of_ne (not_lt.1 h1) (Ne.symm h2)
      · exact hc p hp

/-- A write below 4096 keeps the canonical form. -/
theorem Memory.wf_writeAt {m : Memory} (h : m.wf) {a : Nat} (ha : a < 4096) (b : Byte) : (m.writeAt a b).wf := by
  unfold Memory.writeAt
  split_ifs with hb
  · exact ⟨h.1.filter _, fun p hp => h.2 p (List.mem_of_mem_filter hp)⟩
  · refine ⟨Memory.pairwise_insertAt m a b h.1, fun p hp => ?_⟩
    rcases Memory.keys_insertAt m a b hp with rfl | hp
    · exact ⟨ha, hb⟩
    · exact h.2 p hp

theorem Memory.wf_write {m : Memory} (h : m.wf) (a : Addr) (b : Byte) : (m.write a b).wf :=
  Memory.wf_writeAt h a.isLt b

/-- Two memories in canonical form that read the same are the same list. -/
theorem Memory.ext_of_readAt {m m' : Memory} (h : m.wf) (h' : m'.wf) (hr : ∀ a, m.readAt a = m'.readAt a) : m = m' := by
  have lookup : ∀ (l : Memory), l.Pairwise (fun p q => p.1 < q.1) → ∀ p ∈ l, l.readAt p.1 = p.2 := by
    intro l hl
    induction l with
    | nil => simp
    | cons c rest ih =>
      obtain ⟨hc, hrest⟩ := List.pairwise_cons.1 hl
      intro p hp
      rcases List.mem_cons.1 hp with rfl | hp
      · simp [Memory.readAt]
      · simp [Memory.readAt, (hc p hp).ne, ih hrest p hp]
  have absent : ∀ (l : Memory) (a : Nat), (∀ p ∈ l, p.1 ≠ a) → l.readAt a = Memory.background a := by
    intro l a
    induction l with
    | nil => intro _; rfl
    | cons c rest ih =>
      intro hl
      simp [Memory.readAt, hl c (by simp), ih fun p hp => hl p (by simp [hp])]
  have sub : ∀ {l l' : Memory}, l.wf → l'.wf → (∀ a, l.readAt a = l'.readAt a) → ∀ p ∈ l, p ∈ l' := by
    intro l l' hl hl' hr p hp
    by_cases hq : ∃ q ∈ l', q.1 = p.1
    · obtain ⟨q, hq, hqp⟩ := hq
      have h1 := lookup l hl.1 p hp
      have h2 := lookup l' hl'.1 q hq
      rw [hqp, ← hr, h1] at h2
      have : p = q := Prod.ext hqp.symm h2
      exact this ▸ hq
    · have h1 := lookup l hl.1 p hp
      rw [hr, absent l' p.1 (fun q hq' => fun e => hq ⟨q, hq', e⟩)] at h1
      exact absurd h1.symm (hl.2 p hp).2
  refine List.Perm.eq_of_pairwise (le := fun p q : Host.Cell => p.1 < q.1) ?_ h.1 h'.1 ?_
  · intro a b _ _ hab hba
    exact absurd hab (lt_asymm hba)
  · refine (List.perm_ext_iff_of_nodup ?_ ?_).2 fun p => ⟨sub h h' hr p, sub h' h (fun a => (hr a).symm) p⟩
    · exact h.1.imp fun h e => by simp [e] at h
    · exact h'.1.imp fun h e => by simp [e] at h

/-! ## Blocks -/

@[simp] theorem forUpTo_zero {α : Type} (f : Nat → α → α) (a : α) : forUpTo 0 f a = a := rfl

@[simp] theorem forUpTo_succ {α : Type} (k : Nat) (f : Nat → α → α) (a : α) :
    forUpTo (k + 1) f a = f k (forUpTo k f a) := rfl

/-- A property that one pass keeps holds after the loop. -/
theorem forUpTo_keeps {α : Type} (P : α → Prop) (f : Nat → α → α) (a : α) (h0 : P a)
    (hs : ∀ k b, P b → P (f k b)) (n : Nat) : P (forUpTo n f a) := by
  induction n with
  | zero => exact h0
  | succ k ih => exact hs k _ ih

/-- The address of byte `k` of a block, on unbounded numbers. -/
theorem ea_byteAddr_toNat (base : Word) (k : Nat) : (ea (byteAddr base k)).toNat = (base.toNat + k) % 4096 := by
  simp only [ea, byteAddr, BitVec.toNat_setWidth, BitVec.toNat_add, BitVec.toNat_ofNat]
  omega

/-- At most 4096 consecutive bytes have distinct addresses. -/
theorem ea_byteAddr_inj (base : Word) {j k : Nat} (hj : j < 4096) (hk : k < 4096)
    (h : ea (byteAddr base j) = ea (byteAddr base k)) : j = k := by
  have := congrArg BitVec.toNat h
  simp only [ea_byteAddr_toNat] at this
  omega

theorem writeBytes_wf {m : Memory} (h : m.wf) (base : Word) (count : Nat) (f : Nat → Byte) :
    (writeBytes base count f m).wf :=
  forUpTo_keeps Memory.wf _ m h (fun _ _ hb => Memory.wf_write hb _ _) count

/-- A block of writes changes no other address. -/
theorem writeBytes_read_other (m : Memory) (base : Word) (count : Nat) (f : Nat → Byte) (a : Addr)
    (h : ∀ k < count, ea (byteAddr base k) ≠ a) : (writeBytes base count f m).read a = m.read a := by
  unfold writeBytes
  induction count with
  | zero => rfl
  | succ n ih =>
    rw [forUpTo_succ, Memory.read_write_ne _ (h n (by omega)), ih fun k hk => h k (by omega)]

/-- A block of writes leaves its own bytes at its own addresses. -/
theorem writeBytes_read (m : Memory) (base : Word) (count : Nat) (f : Nat → Byte) (hc : count ≤ 4096)
    {k : Nat} (hk : k < count) : (writeBytes base count f m).read (ea (byteAddr base k)) = f k := by
  unfold writeBytes
  induction count with
  | zero => omega
  | succ n ih =>
    rw [forUpTo_succ]
    by_cases h : k = n
    · subst h; simp
    · rw [Memory.read_write_ne _ fun e => h (ea_byteAddr_inj base (by omega) (by omega) e.symm)]
      exact ih (by omega) (by omega)

end Sys2Proof.Machine
end

