-- ==== Sys2Proof/Laws/Display.lean ====
section
/-! SUPPORT. Laws of the display grid: a cell after a write, and the blank grid. -/

namespace Sys2Proof.Machine

/-- A cell after a write to the grid. -/
theorem Display.get_put (d : Display) (cx cx' : Column) (cy cy' : Row) (b : Bool) :
    Display.get (Display.put d cx cy b) cx' cy' = if cx = cx' ∧ cy = cy' then b else Display.get d cx' cy' := by
  simp only [Display.get, Display.put, Fin.getElem_fin, Vector.getElem_set, Fin.val_inj]
  by_cases hy : cy = cy'
  · subst hy
    by_cases hx : cx = cx' <;> simp [hx, Fin.val_inj]
  · simp [hy]

@[simp] theorem Display.get_put_same (d : Display) (cx : Column) (cy : Row) (b : Bool) :
    Display.get (Display.put d cx cy b) cx cy = b := by
  simp [Display.get_put]

@[simp] theorem Display.get_blank (cx : Column) (cy : Row) : Display.get Display.blank cx cy = false := by
  simp [Display.get, Display.blank]

/-- Two grids with the same cells are the same grid. -/
theorem Display.ext_get {d d' : Display} (h : ∀ cx cy, Display.get d cx cy = Display.get d' cx cy) : d = d' := by
  refine Vector.ext fun i hi => Vector.ext fun j hj => ?_
  simpa [Display.get] using h ⟨j, hj⟩ ⟨i, hi⟩

end Sys2Proof.Machine
end

