-- ==== Sys2Proof/Laws/Ops.lean ====
section
/-! SUPPORT. One lemma per shared operation that says what it does, at the parameters of this machine where it takes
any. -/

namespace Sys2Proof.Machine

variable (s : State)

/-! ## Registers and flags -/

/-- A register after a write. -/
theorem State.reg_setReg (j k : RegIdx) (b : Byte) :
    (s.setReg j b).reg k = if k = j then b else s.reg k := by
  simp only [State.reg, State.setReg_v, Fin.getElem_fin, Vector.getElem_set, Fin.val_inj, eq_comm]

@[simp] theorem State.reg_setReg_same (j : RegIdx) (b : Byte) : (s.setReg j b).reg j = b := by
  simp [State.reg_setReg]

theorem State.reg_setReg_ne {j k : RegIdx} (h : k ≠ j) (b : Byte) : (s.setReg j b).reg k = s.reg k := by
  simp [State.reg_setReg, h]

/-- The flag first, the result second: with `x` the flag register, the result stands (R140). -/
theorem writeFlagged_default (x : RegIdx) (flag result : Byte) :
    writeFlagged parameters x flag result s = (s.setReg VF flag).setReg x result := rfl

/-! ## Stack -/

theorem State.push_eq (a : Word) : s.push a = s.setStack (s.stack ++ [a]) := rfl

theorem State.pop_nil (h : s.stack = []) : s.pop = none := by simp [State.pop, h]

theorem State.pop_concat {l : List Word} {a : Word} (h : s.stack = l ++ [a]) : s.pop = some (a, s.setStack l) := by
  simp [State.pop, h]

@[simp] theorem stackFull_default : stackFull parameters s = false := rfl

/-! ## Memory -/

@[simp] theorem accessAllowed_default (base : Word) (count : Nat) : accessAllowed parameters base count = true := rfl

/-- Under `ADDR_POLICY = fault` an access goes on exactly when no address value is above 4095 (R51). -/
theorem accessAllowed_fault {c : Config} (h : c.addrPolicy = .fault) (base : Word) (count : Nat) :
    accessAllowed c base count = true ↔ ∀ k < count, (byteAddr base k).toNat ≤ 4095 := by
  simp [accessAllowed, h]

theorem storeBlockIn_default (count : Nat) (f : Nat → Byte) :
    storeBlockIn parameters count f s = .next (s.setMem (writeBytes s.index count f s.mem)) := rfl

theorem loadBlockIn_default (count : Nat) :
    loadBlockIn parameters count s = .next (readIntoRegs s.index count s) := rfl

/-- Only registers change while a block is loaded, so every byte is read from the memory before (R165). -/
theorem readIntoRegs_keeps (base : Word) (count : Nat) :
    ∃ v, readIntoRegs base count s = { s with v := v } := by
  unfold readIntoRegs
  induction count with
  | zero => exact ⟨s.v, rfl⟩
  | succ n ih =>
    obtain ⟨v, hv⟩ := ih
    rw [forUpTo_succ, hv]
    exact ⟨_, rfl⟩

/-- The registers after a block load: `V[k]` for `k` below the count holds its byte, the others are as before. -/
theorem readIntoRegs_reg (base : Word) {count : Nat} (hc : count ≤ 16) (j : RegIdx) :
    (readIntoRegs base count s).reg j = if j.val < count then s.readByte (byteAddr base j.val) else s.reg j := by
  induction count with
  | zero => rfl
  | succ n ih =>
    have ih := ih (by omega)
    have hstep : readIntoRegs base (n + 1) s
        = (readIntoRegs base n s).setReg (regAt n) (s.readByte (byteAddr base n)) := rfl
    have hn : j = regAt n ↔ j.val = n := by
      simp only [regAt, Fin.ext_iff, Fin.val_ofNat]; omega
    rw [hstep, State.reg_setReg, ih]
    by_cases h : j.val = n
    · simp [hn, h]
    · have : j.val < n ↔ j.val < n + 1 := by omega
      simp [hn, h, this]

/-! ## Key delivery, the timer gate, the fetch -/

/-- Everything key delivery can do (R102). -/
theorem deliverKey_cases :
    deliverKey s = s ∨ ∃ r k, s.waiting = some r ∧ s.input.keyEvent = some k ∧
      deliverKey s = (s.setReg r (zextKey k)).setWaiting none := by
  unfold deliverKey
  split
  · exact .inl rfl
  · rename_i r hw
    split
    · exact .inl rfl
    · rename_i k hk
      exact .inr ⟨r, k, hw, hk, rfl⟩

theorem deliverKey_running (h : s.waiting = none) : deliverKey s = s := by simp [deliverKey, h]

/-- The timer gate as the spec writes it (R104): a tick when one is due, else nothing. -/
theorem timerGate_eq (c : Config) :
    timerGateIn c s =
      if tickDue c s then { s with dt := countDown s.dt, st := countDown s.st, lastTick := s.input.now } else s := by
  unfold timerGateIn
  by_cases h : tickDue c s = true <;> simp [h]

/-- One tick of one timer, on unbounded numbers (R211). -/
theorem countDown_toNat (b : Byte) : (countDown b).toNat = b.toNat - 1 := by
  unfold countDown
  by_cases h : b = 0
  · simp [h]
  · have : 0 < b.toNat := by
      rcases Nat.eq_zero_or_pos b.toNat with h0 | h0
      · exact absurd (BitVec.eq_of_toNat_eq (by simpa using h0)) h
      · exact h0
    rw [if_neg h, BitVec.toNat_sub_of_le (by simpa [BitVec.le_def] using Nat.succ_le_of_lt this)]
    rfl

@[simp] theorem fetch_default : fetch s = .ok (fetchWord s) := rfl

/-! ## Draw -/

/-- The collision bit of a draw never falls. -/
theorem drawPixel_snd (cx : Column) (cy : Row) (bit : Bool) (a : Display × Bool) (h : a.2 = true) :
    (drawPixel cx cy bit a).2 = true := by simp [drawPixel, h]

theorem drawIn_default (x y : RegIdx) (n : BitVec 4) :
    drawIn parameters x y n s = .next
      ((s.setDisp (drawRows (s.reg x) (s.reg y) n.toNat (fun row => s.readByte (byteAddr s.index row))
          (s.disp, false)).1).setReg VF
        (flagByte (drawRows (s.reg x) (s.reg y) n.toNat (fun row => s.readByte (byteAddr s.index row))
          (s.disp, false)).2)) := by
  have h : ∀ old hit, collisionFlag parameters old hit = flagByte hit := by
    intro old hit
    simp [collisionFlag, parameters]
  simp [drawIn, h]

end Sys2Proof.Machine
end

