-- ==== Sys2Proof/Laws/Draw.lean ====
section
/-! SUPPORT. What the loops of `DRW` do to the grid and the collision bit, cell by cell. -/

namespace Sys2Proof.Machine

/-- The bit that the first `n` pixel columns of a sprite byte, placed at `px`, put in column `cx`. -/
def rowCell (px : Byte) (b : Byte) (n : Nat) (cx : Column) : Bool :=
  let col := (cx.val + 64 - px.toNat % 64) % 64
  decide (col < n) && b.getLsbD (7 - col)

/-- Which pixel column of a sprite lands on a column of the grid (R172). -/
theorem spriteColumn_eq_iff (px : Byte) (k : Nat) (hk : k < 64) (cx : Column) : spriteColumn px k = cx ↔ (cx.val + 64 - px.toNat % 64) % 64 = k := by
  simp only [spriteColumn, Fin.ext_iff, Fin.val_ofNat]
  have := cx.isLt
  omega

/-- Which pixel row of a sprite lands on a row of the grid (R172). -/
theorem spriteRow_eq_iff (py : Byte) (k : Nat) (hk : k < 32) (cy : Row) : spriteRow py k = cy ↔ (cy.val + 32 - py.toNat % 32) % 32 = k := by
  simp only [spriteRow, Fin.ext_iff, Fin.val_ofNat]
  have := cy.isLt
  omega

/-- Everything the pixel loop of one row does: each cell is XORed with the sprite bit there, and the collision bit rises
when a set cell of the row meets a set bit. -/
theorem drawRow_loop (px : Byte) (cy : Row) (b : Byte) (a : Display × Bool) (n : Nat) (hn : n ≤ 64) :
    let r := forUpTo n (fun col a => drawPixel (spriteColumn px col) cy (spriteBit b col) a) a
    (∀ cx cy', Display.get r.1 cx cy' = (Display.get a.1 cx cy' ^^ (decide (cy = cy') && rowCell px b n cx))) ∧
    (r.2 = true ↔ a.2 = true ∨ ∃ cx, Display.get a.1 cx cy = true ∧ rowCell px b n cx = true) := by
  induction n with
  | zero => simp [rowCell]
  | succ n ih =>
    obtain ⟨ih1, ih2⟩ := ih (by omega)
    simp only [forUpTo_succ]
    generalize forUpTo n (fun col a => drawPixel (spriteColumn px col) cy (spriteBit b col) a) a = r at *
    have hc : ∀ cx, spriteColumn px n = cx ↔ _ := spriteColumn_eq_iff px n (by omega)
    have hout : rowCell px b n (spriteColumn px n) = false := by
      have := (hc _).1 rfl
      simp [rowCell, this]
    have hsucc : ∀ cx, rowCell px b (n+1) cx = (rowCell px b n cx || (decide (spriteColumn px n = cx) && spriteBit b n)) := by
      intro cx
      by_cases h : spriteColumn px n = cx
      · have h' := (hc cx).1 h
        rw [← h, hout, h]; simp [rowCell, h', spriteBit]
      · have h' : ¬ (cx.val + 64 - px.toNat % 64) % 64 = n := fun e => h ((hc cx).2 e)
        have : (cx.val + 64 - px.toNat % 64) % 64 < n + 1 ↔ (cx.val + 64 - px.toNat % 64) % 64 < n := by omega
        simp [rowCell, h, this]
    constructor
    · intro cx cy'
      simp only [drawPixel, Display.get_put, hsucc]
      by_cases h1 : spriteColumn px n = cx
      · by_cases h2 : cy = cy'
        · subst h1 h2; simp [ih1, hout]
        · simp [h2, ih1]
      · simp [h1, ih1]
    · simp only [drawPixel, Bool.or_eq_true, Bool.and_eq_true, ih2, hsucc, ih1, hout]
      constructor
      · rintro ((h | ⟨cx, h⟩) | ⟨h1, h2⟩)
        · exact .inl h
        · exact .inr ⟨cx, h.1, .inl h.2⟩
        · refine .inr ⟨spriteColumn px n, by simpa using h2, .inr ⟨by simp, h1⟩⟩
      · rintro (h | ⟨cx, h1, h2 | ⟨h2, h3⟩⟩)
        · exact .inl (.inl h)
        · exact .inl (.inr ⟨cx, h1, h2⟩)
        · have : spriteColumn px n = cx := by simpa using h2
          subst this
          exact .inr ⟨h3, by simpa using h1⟩

/-- The bit that the first `n` rows of a sprite placed at `(px, py)` put in a cell. -/
def rowsCell (px py : Byte) (bytes : Nat → Byte) (n : Nat) (cx : Column) (cy : Row) : Bool :=
  let row := (cy.val + 32 - py.toNat % 32) % 32
  decide (row < n) && rowCell px (bytes row) 8 cx

/-- Everything the loops of a draw do: each cell is XORed with the sprite bit there, and the collision bit rises when a
set cell meets a set bit. -/
theorem drawRows_spec (px py : Byte) (bytes : Nat → Byte) (a : Display × Bool) (n : Nat) (hn : n ≤ 32) :
    let r := drawRows px py n bytes a
    (∀ cx cy, Display.get r.1 cx cy = (Display.get a.1 cx cy ^^ rowsCell px py bytes n cx cy)) ∧
    (r.2 = true ↔ a.2 = true ∨ ∃ cx cy, Display.get a.1 cx cy = true ∧ rowsCell px py bytes n cx cy = true) := by
  unfold drawRows
  induction n with
  | zero => simp [rowsCell]
  | succ n ih =>
    obtain ⟨ih1, ih2⟩ := ih (by omega)
    simp only [forUpTo_succ]
    generalize forUpTo n _ a = r at *
    obtain ⟨h1, h2⟩ := drawRow_loop px (spriteRow py n) (bytes n) r 8 (by decide)
    have hc : ∀ cy, spriteRow py n = cy ↔ _ := spriteRow_eq_iff py n (by omega)
    have hout : ∀ cx, rowsCell px py bytes n cx (spriteRow py n) = false := by
      intro cx
      have := (hc _).1 rfl
      simp [rowsCell, this]
    have hsucc : ∀ cx cy, rowsCell px py bytes (n+1) cx cy = (rowsCell px py bytes n cx cy || (decide (spriteRow py n = cy) && rowCell px (bytes n) 8 cx)) := by
      intro cx cy
      by_cases h : spriteRow py n = cy
      · have h' := (hc cy).1 h
        rw [← h, hout, h]; simp [rowsCell, h']
      · have h' : ¬ (cy.val + 32 - py.toNat % 32) % 32 = n := fun e => h ((hc cy).2 e)
        have : (cy.val + 32 - py.toNat % 32) % 32 < n + 1 ↔ (cy.val + 32 - py.toNat % 32) % 32 < n := by omega
        simp [rowsCell, h, this]
    constructor
    · intro cx cy
      refine (h1 cx cy).trans ?_
      rw [ih1, hsucc]
      by_cases h : spriteRow py n = cy
      · subst h; simp [hout]
      · simp [h]
    · refine h2.trans ?_
      rw [ih2]
      simp only [hsucc, ih1, hout, Bool.or_eq_true, Bool.and_eq_true, decide_eq_true_eq]
      constructor
      · rintro ((h | ⟨cx, cy, h⟩) | ⟨cx, h3, h4⟩)
        · exact .inl h
        · exact .inr ⟨cx, cy, h.1, .inl h.2⟩
        · exact .inr ⟨cx, spriteRow py n, by simpa using h3, .inr ⟨rfl, h4⟩⟩
      · rintro (h | ⟨cx, cy, h3, h4 | ⟨h4, h5⟩⟩)
        · exact .inl (.inl h)
        · exact .inl (.inr ⟨cx, cy, h3, h4⟩)
        · subst h4; exact .inr ⟨cx, by simpa using h3, h5⟩

/-- The two ways to name the sprite at a cell agree. -/
theorem rowsCell_eq_spriteCell (s : State) (x y : RegIdx) (n : BitVec 4) (cx : Column) (cy : Row) :
    rowsCell (s.reg x) (s.reg y) (fun row => s.readByte (byteAddr s.index row)) n.toNat cx cy = spriteCell s x y n cx cy := by
  simp [rowsCell, rowCell, spriteCell, Bool.and_assoc]

end Sys2Proof.Machine
end

