-- ==== Sys2Proof/Laws/PerInstr.lean ====
section
/-! SUPPORT. The family `MatchesRow`: the word of an instruction matches the instruction's own row of the opcode map
(spec/30_encoding.md R75), so no fixed bit of an encoding is lost. -/

namespace Sys2Proof.Laws.MatchesRow

open Sys2Proof Sys2Proof.Machine

/-- The word of `i` has the bits its row of R75 fixes. -/
def Statement (i : Instr) : Prop :=
  i.wellFormed = true → rowMatches (encode i) (opcodeRows.getD i.row (0xFFFF, 0)) = true

variable (x y : RegIdx) (kk : Byte) (nnn : Addr) (n : BitVec 4) (w : Word)

theorem cls : Statement (.cls) := fun _ => by decide

theorem ret : Statement (.ret) := fun _ => by decide

theorem sys : Statement (.sys nnn) := fun _ => by
  simp only [rowMatches, encode, Instr.row, opcodeRows, List.cons_append, List.nil_append, List.getD_cons_succ,
    List.getD_cons_zero, BitVec.ofNat_eq_ofNat, formatFA_and_F000]; decide

theorem jp : Statement (.jp nnn) := fun _ => by
  simp only [rowMatches, encode, Instr.row, opcodeRows, List.cons_append, List.nil_append, List.getD_cons_succ,
    List.getD_cons_zero, BitVec.ofNat_eq_ofNat, formatFA_and_F000]; decide

theorem call : Statement (.call nnn) := fun _ => by
  simp only [rowMatches, encode, Instr.row, opcodeRows, List.cons_append, List.nil_append, List.getD_cons_succ,
    List.getD_cons_zero, BitVec.ofNat_eq_ofNat, formatFA_and_F000]; decide

theorem seImm : Statement (.seImm x kk) := fun _ => by
  simp only [rowMatches, encode, Instr.row, opcodeRows, List.cons_append, List.nil_append, List.getD_cons_succ,
    List.getD_cons_zero, BitVec.ofNat_eq_ofNat, formatFI_and_F000]; decide

theorem sneImm : Statement (.sneImm x kk) := fun _ => by
  simp only [rowMatches, encode, Instr.row, opcodeRows, List.cons_append, List.nil_append, List.getD_cons_succ,
    List.getD_cons_zero, BitVec.ofNat_eq_ofNat, formatFI_and_F000]; decide

theorem seReg : Statement (.seReg x y) := fun _ => by
  simp only [rowMatches, encode, Instr.row, opcodeRows, List.cons_append, List.nil_append, List.getD_cons_succ,
    List.getD_cons_zero, BitVec.ofNat_eq_ofNat, formatFR_and_F00F]; decide

theorem ldImm : Statement (.ldImm x kk) := fun _ => by
  simp only [rowMatches, encode, Instr.row, opcodeRows, List.cons_append, List.nil_append, List.getD_cons_succ,
    List.getD_cons_zero, BitVec.ofNat_eq_ofNat, formatFI_and_F000]; decide

theorem addImm : Statement (.addImm x kk) := fun _ => by
  simp only [rowMatches, encode, Instr.row, opcodeRows, List.cons_append, List.nil_append, List.getD_cons_succ,
    List.getD_cons_zero, BitVec.ofNat_eq_ofNat, formatFI_and_F000]; decide

theorem ldReg : Statement (.ldReg x y) := fun _ => by
  simp only [rowMatches, encode, Instr.row, opcodeRows, List.cons_append, List.nil_append, List.getD_cons_succ,
    List.getD_cons_zero, BitVec.ofNat_eq_ofNat, formatFR_and_F00F]; decide

theorem orReg : Statement (.orReg x y) := fun _ => by
  simp only [rowMatches, encode, Instr.row, opcodeRows, List.cons_append, List.nil_append, List.getD_cons_succ,
    List.getD_cons_zero, BitVec.ofNat_eq_ofNat, formatFR_and_F00F]; decide

theorem andReg : Statement (.andReg x y) := fun _ => by
  simp only [rowMatches, encode, Instr.row, opcodeRows, List.cons_append, List.nil_append, List.getD_cons_succ,
    List.getD_cons_zero, BitVec.ofNat_eq_ofNat, formatFR_and_F00F]; decide

theorem xorReg : Statement (.xorReg x y) := fun _ => by
  simp only [rowMatches, encode, Instr.row, opcodeRows, List.cons_append, List.nil_append, List.getD_cons_succ,
    List.getD_cons_zero, BitVec.ofNat_eq_ofNat, formatFR_and_F00F]; decide

theorem addReg : Statement (.addReg x y) := fun _ => by
  simp only [rowMatches, encode, Instr.row, opcodeRows, List.cons_append, List.nil_append, List.getD_cons_succ,
    List.getD_cons_zero, BitVec.ofNat_eq_ofNat, formatFR_and_F00F]; decide

theorem subReg : Statement (.subReg x y) := fun _ => by
  simp only [rowMatches, encode, Instr.row, opcodeRows, List.cons_append, List.nil_append, List.getD_cons_succ,
    List.getD_cons_zero, BitVec.ofNat_eq_ofNat, formatFR_and_F00F]; decide

theorem shr : Statement (.shr x y) := fun _ => by
  simp only [rowMatches, encode, Instr.row, opcodeRows, List.cons_append, List.nil_append, List.getD_cons_succ,
    List.getD_cons_zero, BitVec.ofNat_eq_ofNat, formatFR_and_F00F]; decide

theorem subnReg : Statement (.subnReg x y) := fun _ => by
  simp only [rowMatches, encode, Instr.row, opcodeRows, List.cons_append, List.nil_append, List.getD_cons_succ,
    List.getD_cons_zero, BitVec.ofNat_eq_ofNat, formatFR_and_F00F]; decide

theorem shl : Statement (.shl x y) := fun _ => by
  simp only [rowMatches, encode, Instr.row, opcodeRows, List.cons_append, List.nil_append, List.getD_cons_succ,
    List.getD_cons_zero, BitVec.ofNat_eq_ofNat, formatFR_and_F00F]; decide

theorem sneReg : Statement (.sneReg x y) := fun _ => by
  simp only [rowMatches, encode, Instr.row, opcodeRows, List.cons_append, List.nil_append, List.getD_cons_succ,
    List.getD_cons_zero, BitVec.ofNat_eq_ofNat, formatFR_and_F00F]; decide

theorem ldI : Statement (.ldI nnn) := fun _ => by
  simp only [rowMatches, encode, Instr.row, opcodeRows, List.cons_append, List.nil_append, List.getD_cons_succ,
    List.getD_cons_zero, BitVec.ofNat_eq_ofNat, formatFA_and_F000]; decide

theorem jpV0 : Statement (.jpV0 nnn) := fun _ => by
  simp only [rowMatches, encode, Instr.row, opcodeRows, List.cons_append, List.nil_append, List.getD_cons_succ,
    List.getD_cons_zero, BitVec.ofNat_eq_ofNat, formatFA_and_F000]; decide

theorem rnd : Statement (.rnd x kk) := fun _ => by
  simp only [rowMatches, encode, Instr.row, opcodeRows, List.cons_append, List.nil_append, List.getD_cons_succ,
    List.getD_cons_zero, BitVec.ofNat_eq_ofNat, formatFI_and_F000]; decide

theorem drw : Statement (.drw x y n) := fun _ => by
  simp only [rowMatches, encode, Instr.row, opcodeRows, List.cons_append, List.nil_append, List.getD_cons_succ,
    List.getD_cons_zero, BitVec.ofNat_eq_ofNat, formatFR_and_F000]; decide

theorem skp : Statement (.skp x) := fun _ => by
  simp only [rowMatches, encode, Instr.row, opcodeRows, List.cons_append, List.nil_append, List.getD_cons_succ,
    List.getD_cons_zero, BitVec.ofNat_eq_ofNat, formatFX_eq, formatFI_and_F0FF]; decide

theorem sknp : Statement (.sknp x) := fun _ => by
  simp only [rowMatches, encode, Instr.row, opcodeRows, List.cons_append, List.nil_append, List.getD_cons_succ,
    List.getD_cons_zero, BitVec.ofNat_eq_ofNat, formatFX_eq, formatFI_and_F0FF]; decide

theorem ldVxDt : Statement (.ldVxDt x) := fun _ => by
  simp only [rowMatches, encode, Instr.row, opcodeRows, List.cons_append, List.nil_append, List.getD_cons_succ,
    List.getD_cons_zero, BitVec.ofNat_eq_ofNat, formatFX_eq, formatFI_and_F0FF]; decide

theorem ldVxK : Statement (.ldVxK x) := fun _ => by
  simp only [rowMatches, encode, Instr.row, opcodeRows, List.cons_append, List.nil_append, List.getD_cons_succ,
    List.getD_cons_zero, BitVec.ofNat_eq_ofNat, formatFX_eq, formatFI_and_F0FF]; decide

theorem ldDtVx : Statement (.ldDtVx x) := fun _ => by
  simp only [rowMatches, encode, Instr.row, opcodeRows, List.cons_append, List.nil_append, List.getD_cons_succ,
    List.getD_cons_zero, BitVec.ofNat_eq_ofNat, formatFX_eq, formatFI_and_F0FF]; decide

theorem ldStVx : Statement (.ldStVx x) := fun _ => by
  simp only [rowMatches, encode, Instr.row, opcodeRows, List.cons_append, List.nil_append, List.getD_cons_succ,
    List.getD_cons_zero, BitVec.ofNat_eq_ofNat, formatFX_eq, formatFI_and_F0FF]; decide

theorem addI : Statement (.addI x) := fun _ => by
  simp only [rowMatches, encode, Instr.row, opcodeRows, List.cons_append, List.nil_append, List.getD_cons_succ,
    List.getD_cons_zero, BitVec.ofNat_eq_ofNat, formatFX_eq, formatFI_and_F0FF]; decide

theorem ldF : Statement (.ldF x) := fun _ => by
  simp only [rowMatches, encode, Instr.row, opcodeRows, List.cons_append, List.nil_append, List.getD_cons_succ,
    List.getD_cons_zero, BitVec.ofNat_eq_ofNat, formatFX_eq, formatFI_and_F0FF]; decide

theorem ldB : Statement (.ldB x) := fun _ => by
  simp only [rowMatches, encode, Instr.row, opcodeRows, List.cons_append, List.nil_append, List.getD_cons_succ,
    List.getD_cons_zero, BitVec.ofNat_eq_ofNat, formatFX_eq, formatFI_and_F0FF]; decide

theorem storeRegs : Statement (.storeRegs x) := fun _ => by
  simp only [rowMatches, encode, Instr.row, opcodeRows, List.cons_append, List.nil_append, List.getD_cons_succ,
    List.getD_cons_zero, BitVec.ofNat_eq_ofNat, formatFX_eq, formatFI_and_F0FF]; decide

theorem loadRegs : Statement (.loadRegs x) := fun _ => by
  simp only [rowMatches, encode, Instr.row, opcodeRows, List.cons_append, List.nil_append, List.getD_cons_succ,
    List.getD_cons_zero, BitVec.ofNat_eq_ofNat, formatFX_eq, formatFI_and_F0FF]; decide

theorem nop : Statement (.nop w) := fun _ => by simp [rowMatches, encode, Instr.row, opcodeRows]

end Sys2Proof.Laws.MatchesRow
end

