-- ==== Sys2Proof/Laws/Reset.lean ====
section
/-! SUPPORT. What loading a ROM leaves in memory. -/

namespace Sys2Proof.Machine

/-- Memory after loading a ROM from address `a` on. -/
theorem loadRom_read (rom : List Byte) : ∀ (a : Nat) (m : Memory) (b : Nat), (loadRom a rom m).readAt b =
    if a ≤ b ∧ b < a + rom.length then rom.getD (b - a) 0 else m.readAt b := by
  induction rom with
  | nil => intro a m b; simp [loadRom]; try omega
  | cons c rest ih =>
    intro a m b
    rw [loadRom, ih, Memory.readAt_writeAt]
    by_cases h : a = b
    · subst h; simp
    · by_cases h2 : a + 1 ≤ b ∧ b < a + 1 + rest.length
      · rw [if_pos h2, if_pos (by simp; omega)]
        rw [show b - a = (b - (a+1)) + 1 by omega]; simp
      · rw [if_neg h2, if_neg h, if_neg (by simp; omega)]

/-- Loading a ROM that fits keeps the canonical form. -/
theorem loadRom_wf (rom : List Byte) : ∀ (a : Nat) (m : Memory), m.wf → a + rom.length ≤ 4096 → (loadRom a rom m).wf := by
  induction rom with
  | nil => intro a m h _; exact h
  | cons c rest ih => intro a m h hl; simp at hl; exact ih _ _ (Memory.wf_writeAt h (by omega) _) (by omega)

/-- At the default font base, an unlisted address reads as the font table and zeros (R58, R59). -/
theorem Memory.background_default (a : Nat) : Memory.background a = parameters.font.getD a 0 := by
  simp [Memory.background, parameters]

theorem font_length : parameters.font.length = 80 := by decide

end Sys2Proof.Machine
end

