-- ==== Sys2Proof/Laws/Step.lean ====
section
/-! SUPPORT. Everything a step can do, said once. -/

namespace Sys2Proof.Machine

variable {s t : State}

/-- An unstalled step of a machine that has not faulted. -/
theorem step_running (hf : s.fault = none) (hw : (deliverKey s).waiting = none) :
    step s = runInstr (beforeFetch s) := by
  simp [step, hf, hw]

/-- A stalled step. -/
theorem step_stalled (hf : s.fault = none) {r : RegIdx} (hw : (deliverKey s).waiting = some r) :
    step s = .next (endStalled (deliverKey s)) := by
  simp [step, hf, hw]

/-- The rest of an unstalled step, with the fetch of this machine, which cannot fail. -/
theorem runInstr_eq (s : State) :
    runInstr s = match exec (decode (fetchWord s)) s with
      | .next t => .next (endStep (changesDisplay (decode (fetchWord s))) t)
      | .fault f => .fault f
      | .refused r => .refused r := rfl

/-- A step that answers a next state: a stalled one, or one that ran an instruction to a next state. -/
theorem step_next_cases (h : step s = .next t) :
    s.fault = none ∧
      ((∃ r, (deliverKey s).waiting = some r ∧ t = endStalled (deliverKey s)) ∨
        ((deliverKey s).waiting = none ∧ ∃ u, exec (decode (fetchWord (beforeFetch s))) (beforeFetch s) = .next u ∧
          t = endStep (changesDisplay (decode (fetchWord (beforeFetch s)))) u)) := by
  cases hf : s.fault with
  | some f => simp [step, hf] at h
  | none =>
    refine ⟨rfl, ?_⟩
    cases hw : (deliverKey s).waiting with
    | some r =>
      rw [step_stalled hf hw] at h
      exact .inl ⟨r, rfl, by cases h; rfl⟩
    | none =>
      rw [step_running hf hw, runInstr_eq] at h
      refine .inr ⟨rfl, ?_⟩
      cases he : exec (decode (fetchWord (beforeFetch s))) (beforeFetch s) with
      | next u => rw [he] at h; exact ⟨u, rfl, by cases h; rfl⟩
      | fault f => rw [he] at h; cases h
      | refused r => rw [he] at h; cases h

/-- A step that raises a fault: the machine had faulted, or the instruction raises it. -/
theorem step_fault_cases {f : Fault} (h : step s = .fault f) :
    s.fault = some f ∨
      (s.fault = none ∧ (deliverKey s).waiting = none ∧
        exec (decode (fetchWord (beforeFetch s))) (beforeFetch s) = .fault f) := by
  cases hf : s.fault with
  | some g => simp [step, hf] at h; exact .inl (by rw [h])
  | none =>
    refine .inr ⟨rfl, ?_⟩
    cases hw : (deliverKey s).waiting with
    | some r => rw [step_stalled hf hw] at h; cases h
    | none =>
      rw [step_running hf hw, runInstr_eq] at h
      refine ⟨rfl, ?_⟩
      cases he : exec (decode (fetchWord (beforeFetch s))) (beforeFetch s) with
      | next u => rw [he] at h; cases h
      | fault g => rw [he] at h; cases h; rfl
      | refused r => rw [he] at h; cases h

/-- Key delivery changes registers and the stall latch alone (R102). -/
theorem deliverKey_keeps (s : State) : ∃ v w, deliverKey s = { s with v := v, waiting := w } := by
  rcases deliverKey_cases s with h | ⟨r, k, _, _, h⟩ <;> rw [h]
  · exact ⟨s.v, s.waiting, rfl⟩
  · exact ⟨_, _, rfl⟩

/-- A step of a machine that has not faulted is a stalled one or runs an instruction. -/
theorem stalled_or_running (s : State) (h : s.fault = none) : Stalled s ∨ (¬ Stalled s ∧ (deliverKey s).waiting = none) := by
  by_cases hs : Stalled s
  · exact .inl hs
  · right; refine ⟨hs, ?_⟩
    rcases hw : s.waiting with _ | r
    · rw [deliverKey_running s hw, hw]
    · rcases hk : s.input.keyEvent with _ | k
      · exact absurd ⟨h, by simp [hw], hk⟩ hs
      · simp [deliverKey, hw, hk]

/-- A stalled step delivers nothing. -/
theorem deliverKey_of_stalled {s : State} (h : Stalled s) : deliverKey s = s := by
  obtain ⟨hf, hw, hk⟩ := h
  unfold deliverKey; rw [hk]; split <;> rfl

/-- A stalled step (R103). -/
theorem step_of_stalled {s : State} (h : Stalled s) : step s = .next (endStalled s) := by
  obtain ⟨r, hr⟩ := Option.isSome_iff_exists.1 h.2.1
  rw [step_stalled h.1 (r := r) (by rw [deliverKey_of_stalled h, hr]), deliverKey_of_stalled h]

/-- A step that runs `i` (R105 to R109). -/
theorem step_of_runs {s : State} {i : Instr} (h : Runs s i) : step s = match exec i (beforeFetch s) with
      | .next t => .next (endStep (changesDisplay i) t)
      | .fault f => .fault f
      | .refused r => .refused r := by
  obtain ⟨hf, hw, hi⟩ := h
  rw [step_running hf hw, runInstr_eq, hi]

end Sys2Proof.Machine
end

