-- ==== Sys2Proof/Tests/Slice0.lean ====
section
/-! SUPPORT. The model's own tests: the ill-formed terms, one word per row of the opcode table, one-step vectors of
spec/95_test_vectors.md part 2 (the vector's id stands in each docstring), and for every statement with hypotheses a
concrete state and operands that meet them. -/

namespace Sys2Proof.Tests

open Sys2Proof.Machine

/-! ## Well-formedness -/

theorem test_ill_formed_terms :
    (Instr.sys 0x0E0).wellFormed = false ∧ (Instr.sys 0x0EE).wellFormed = false ∧
      (Instr.nop 0x0000).wellFormed = false ∧ (Instr.nop 0x812E).wellFormed = false ∧
      (Instr.nop 0xF165).wellFormed = false := by decide

theorem test_well_formed_terms :
    (Instr.sys 0x0E1).wellFormed = true ∧ (Instr.nop 0x5AB1).wellFormed = true ∧
      (Instr.nop 0x812F).wellFormed = true := by decide

/-! ## Decoding: the words of spec/95_test_vectors.md 2.1 -/

theorem test_decode_control :
    decode 0b0000000011100000 = .cls ∧ decode 0b0000000011101110 = .ret ∧ decode 0b0000000011100001 = .sys 0x0E1 ∧
      decode 0b0001001000110100 = .jp 0x234 ∧ decode 0b0010111111111110 = .call 0xFFE ∧
      decode 0b1011001100000000 = .jpV0 0x300 ∧ decode 0b0101101010110001 = .nop 0x5AB1 := by decide

theorem test_decode_skips :
    decode 0b0011101001111111 = .seImm 10 0x7F ∧ decode 0b0100101100000000 = .sneImm 11 0x00 ∧
      decode 0b0101101010110000 = .seReg 10 11 ∧ decode 0b1001101010110000 = .sneReg 10 11 ∧
      decode 0b1110000110011110 = .skp 1 ∧ decode 0b1110000110100001 = .sknp 1 := by decide

theorem test_decode_load_alu :
    decode 0b0110110010000000 = .ldImm 12 0x80 ∧ decode 0b0111110111111111 = .addImm 13 0xFF ∧
      decode 0b1000000100100000 = .ldReg 1 2 ∧ decode 0b1000000100100001 = .orReg 1 2 ∧
      decode 0b1000000100100010 = .andReg 1 2 ∧ decode 0b1000000100100011 = .xorReg 1 2 ∧
      decode 0b1000000100100100 = .addReg 1 2 ∧ decode 0b1000000100100101 = .subReg 1 2 ∧
      decode 0b1000000100100110 = .shr 1 2 ∧ decode 0b1000000100100111 = .subnReg 1 2 ∧
      decode 0b1000000100101110 = .shl 1 2 ∧ decode 0b1100000100001111 = .rnd 1 0x0F := by decide

theorem test_decode_rest :
    decode 0b1010000100100011 = .ldI 0x123 ∧ decode 0b1101000100100101 = .drw 1 2 5 ∧
      decode 0b1111000100000111 = .ldVxDt 1 ∧ decode 0b1111000100001010 = .ldVxK 1 ∧
      decode 0b1111000100010101 = .ldDtVx 1 ∧ decode 0b1111000100011000 = .ldStVx 1 ∧
      decode 0b1111000100011110 = .addI 1 ∧ decode 0b1111000100101001 = .ldF 1 ∧
      decode 0b1111000100110011 = .ldB 1 ∧ decode 0b1111000101010101 = .storeRegs 1 ∧
      decode 0b1111000101100101 = .loadRegs 1 := by decide

theorem test_decode_bytes :
    decodeBytes [0x60, 0x0A, 0xA0] = .ok (.ldImm 0 0x0A, [0xA0]) ∧ decodeBytes [0x60] = .error .truncated ∧
      decodeTableWord 16 0x600A = some (.ldImm 0 0x0A) ∧ decodeTableWord 24 0x600A = none := by
  refine ⟨rfl, rfl, by decide, by decide⟩

/-- The parameter `STRICT_LOW_NIBBLE` the other way (R80). -/
theorem test_decode_lenient :
    decodeIn { parameters with strictLowNibble := false } 0x5AB1 = .seReg 10 11 ∧
      decodeIn { parameters with strictLowNibble := false } 0x9ABF = .sneReg 10 11 := by decide

/-- The default parameters are admitted (R4). -/
theorem test_default_parameters_admitted : parameters.admissible = true := by decide +kernel

/-! ## One step -/

/-- The inputs of the vectors: no key, no event, random byte 0, time 0. -/
def quiet : StepInput := { keys := 0, keyEvent := none, rnd := 0, now := 0 }

/-- The reset state with the word `w` at 0x200, the inputs `i`, and the registers of the list set. -/
def start (w : Nat) (regs : List (RegIdx × Byte)) (i : StepInput := quiet) : State :=
  regs.foldl (fun s p => s.setReg p.1 p.2) { State.reset.withFetchWord 16 w with inputs := [i] }

/-- What `f` observes of the state after a step, none where the step stops. -/
def seen {α : Type} (f : State → α) (s : State) : Option α :=
  match step s with
  | .next t => some (f t)
  | .fault _ => none
  | .refused _ => none

/-- The state with the byte at `a` set. -/
def poke (a : Addr) (b : Byte) (s : State) : State := s.setMem (s.mem.write a b)

/-- CF1. -/
theorem test_sys : seen (·.pc) (start 0x0123 []) = some 0x202 := by decide
/-- CF2. -/
theorem test_nop : seen (·.pc) (start 0xE19F []) = some 0x202 := by decide
/-- CF3. -/
theorem test_jp : seen (·.pc) (start 0x1ABC []) = some 0xABC := by decide
/-- CF5. -/
theorem test_jp_zero : seen (·.pc) (start 0x1000 []) = some 0 := by decide
/-- CF6. -/
theorem test_call : seen (fun t => (t.pc, t.stack)) (start 0x2ABC []) = some (0xABC, [0x200]) := by decide
/-- CF7, with an older element below. -/
theorem test_ret : seen (fun t => (t.pc, t.stack)) ((start 0x00EE []).setStack [0x300, 0x204]) = some (0x206, [0x300]) :=
  by decide
/-- CF8. -/
theorem test_ret_empty : step (start 0x00EE []) = .fault .stackUnderflow := by rfl
/-- CF10. -/
theorem test_jpV0 : seen (·.pc) (start 0xBFFF [(0, 0xFF)]) = some 0x10FE := by decide

/-- SK1. -/
theorem test_seImm_taken : seen (·.pc) (start 0x3142 [(1, 0x42)]) = some 0x204 := by decide
/-- SK2. -/
theorem test_seImm_not_taken : seen (·.pc) (start 0x3142 [(1, 0x41)]) = some 0x202 := by decide
/-- SK3. -/
theorem test_sneImm_not_taken : seen (·.pc) (start 0x4142 [(1, 0x42)]) = some 0x202 := by decide
/-- SK4. -/
theorem test_sneImm_taken : seen (·.pc) (start 0x4142 [(1, 0x41)]) = some 0x204 := by decide
/-- SK5. -/
theorem test_seReg_taken : seen (·.pc) (start 0x5120 [(1, 7), (2, 7)]) = some 0x204 := by decide
/-- SK6. -/
theorem test_seReg_not_taken : seen (·.pc) (start 0x5120 [(1, 7), (2, 8)]) = some 0x202 := by decide
/-- SK8. -/
theorem test_sneReg_not_taken : seen (·.pc) (start 0x9120 [(1, 7), (2, 7)]) = some 0x202 := by decide
/-- SK9. -/
theorem test_sneReg_taken : seen (·.pc) (start 0x9120 [(1, 7), (2, 8)]) = some 0x204 := by decide
/-- SK10. -/
theorem test_skp : seen (·.pc) (start 0xE19E [(1, 5)] { quiet with keys := 0x0020 }) = some 0x204 := by decide
/-- SK12. -/
theorem test_skp_no_key : seen (·.pc) (start 0xE19E [(1, 0x15)] { quiet with keys := 0xFFFF }) = some 0x202 := by decide
/-- SK13. -/
theorem test_sknp : seen (·.pc) (start 0xE1A1 [(1, 5)] { quiet with keys := 0x0020 }) = some 0x202 := by decide
/-- SK15. -/
theorem test_sknp_no_key : seen (·.pc) (start 0xE1A1 [(1, 0x15)] { quiet with keys := 0xFFFF }) = some 0x204 := by decide

/-- A1. -/
theorem test_ldImm : seen (·.reg 10) (start 0x6AFF []) = some 0xFF := by decide
/-- A2. -/
theorem test_addImm : seen (fun t => (t.reg 1, t.reg VF)) (start 0x7105 [(1, 0xFE), (VF, 7)]) = some (3, 7) := by decide
/-- A5. -/
theorem test_ldReg : seen (·.reg 1) (start 0x8120 [(1, 1), (2, 0x99)]) = some 0x99 := by decide
/-- A6. -/
theorem test_or : seen (fun t => (t.reg 1, t.reg VF)) (start 0x8121 [(1, 0xF0), (2, 0x0F), (VF, 5)]) = some (0xFF, 5) :=
  by decide
/-- A7. -/
theorem test_and : seen (fun t => (t.reg 1, t.reg VF)) (start 0x8122 [(1, 0xF0), (2, 0x3C), (VF, 5)]) = some (0x30, 5) :=
  by decide
/-- A8. -/
theorem test_xor : seen (fun t => (t.reg 1, t.reg VF)) (start 0x8123 [(1, 0xFF), (2, 0x0F), (VF, 5)]) = some (0xF0, 5) :=
  by decide
/-- A14. -/
theorem test_add_255 : seen (fun t => (t.reg 1, t.reg VF)) (start 0x8124 [(1, 0x80), (2, 0x7F), (VF, 9)]) = some (0xFF, 0) :=
  by decide
/-- A16. -/
theorem test_add_from_flag : seen (fun t => (t.reg 1, t.reg VF)) (start 0x81F4 [(1, 0xFF), (VF, 1)]) = some (0, 1) := by decide
/-- A17. -/
theorem test_add_to_flag : seen (·.reg VF) (start 0x8F14 [(VF, 0xF0), (1, 0x20)]) = some 0x10 := by decide
/-- A19. -/
theorem test_sub_borrow : seen (fun t => (t.reg 1, t.reg VF)) (start 0x8125 [(1, 0x10), (2, 0x20)]) = some (0xF0, 0) := by decide
/-- A20. -/
theorem test_sub_equal : seen (fun t => (t.reg 1, t.reg VF)) (start 0x8125 [(1, 5), (2, 5), (VF, 9)]) = some (0, 0) := by decide
/-- A26. -/
theorem test_shr : seen (fun t => (t.reg 1, t.reg VF, t.reg 2)) (start 0x8126 [(1, 0x05), (2, 0x77)]) = some (2, 1, 0x77) :=
  by decide
/-- A31. -/
theorem test_shr_flag : seen (·.reg VF) (start 0x8F06 [(VF, 3)]) = some 1 := by decide
/-- A32. -/
theorem test_subn : seen (fun t => (t.reg 1, t.reg VF)) (start 0x8127 [(1, 0x10), (2, 0x20)]) = some (0x10, 1) := by decide
/-- A34. -/
theorem test_subn_borrow : seen (fun t => (t.reg 1, t.reg VF)) (start 0x8127 [(1, 6), (2, 5)]) = some (0xFF, 0) := by decide
/-- A36. -/
theorem test_shl : seen (fun t => (t.reg 1, t.reg VF, t.reg 2)) (start 0x812E [(1, 0x81), (2, 0x77)]) = some (2, 1, 0x77) :=
  by decide
/-- A41. -/
theorem test_shl_flag : seen (·.reg VF) (start 0x8F0E [(VF, 0x81)]) = some 2 := by decide
/-- A42. -/
theorem test_rnd : seen (·.reg 1) (start 0xC10F [] { quiet with rnd := 0xA7 }) = some 0x07 := by decide

/-- M2. -/
theorem test_ldI : seen (·.index) (start 0xAFFF []) = some 0x0FFF := by decide
/-- M4. -/
theorem test_addI : seen (fun t => (t.index, t.reg VF)) ((start 0xF21E [(2, 1), (VF, 7)]).setIndex 0x0FFF) = some (0x1000, 7) :=
  by decide
/-- M6. -/
theorem test_addI_wraps : seen (·.index) ((start 0xF21E [(2, 0xFF)]).setIndex 0xFFF0) = some 0x00EF := by decide
/-- M8. -/
theorem test_ldF : seen (·.index) (start 0xF029 [(0, 0x0A)]) = some 0x0032 := by decide
/-- M11. -/
theorem test_ldF_large : seen (·.index) (start 0xF029 [(0, 0xFF)]) = some 0x04FB := by decide
/-- M12. -/
theorem test_ldB : seen (fun t => (t.mem.read 0x300, t.mem.read 0x301, t.mem.read 0x302))
    ((start 0xF033 [(0, 254)]).setIndex 0x300) = some (2, 5, 4) := by decide
/-- M17. -/
theorem test_ldB_wraps : seen (fun t => (t.mem.read 0xFFE, t.mem.read 0xFFF, t.mem.read 0x000))
    ((start 0xF033 [(0, 123)]).setIndex 0x0FFE) = some (1, 2, 3) := by decide
/-- M18. -/
theorem test_storeRegs : seen (fun t => (t.mem.read 0x400, t.mem.read 0x402, t.mem.read 0x403, t.index))
    ((start 0xF255 [(0, 1), (1, 2), (2, 3), (3, 4)]).setIndex 0x400) = some (1, 3, 0, 0x400) := by decide
/-- M20, four of its bytes. -/
theorem test_storeRegs_wraps : seen (fun t => (t.mem.read 0xFF8, t.mem.read 0xFFF, t.mem.read 0x000, t.mem.read 0x007))
    ((start 0xFF55 [(0, 0x10), (7, 0x17), (8, 0x18), (15, 0x1F)]).setIndex 0x0FF8) = some (0x10, 0x17, 0x18, 0x1F) := by
  decide
/-- M21. -/
theorem test_loadRegs : seen (fun t => (t.reg 0, t.reg 1, t.reg 2, t.reg 3))
    (poke 0x300 2 (poke 0x301 5 (poke 0x302 4 (poke 0x303 9 ((start 0xF265 [(3, 0x77)]).setIndex 0x300)))))
      = some (2, 5, 4, 0x77) := by decide
/-- M23. -/
theorem test_loadRegs_wraps : seen (fun t => (t.reg 0, t.reg 1)) (poke 0xFFF 0x5A ((start 0xF165 []).setIndex 0x0FFF))
    = some (0x5A, 0xF0) := by decide

/-- Cell `k` of the grid, in the linear order of R28. -/
def cell (s : State) (k : Nat) : Bool := Display.get s.disp (Fin.ofNat 64 k) (Fin.ofNat 32 (k / 64))

/-- The outputs but for the grid. -/
def flags (s : State) : Option (Bool × Bool × Bool) := s.snapshot.map (fun o => (o.displayChanged, o.soundOn, o.waiting))

/-- The state with the cell `(cx, cy)` set. -/
def light (cx : Column) (cy : Row) (s : State) : State := s.setDisp (Display.put s.disp cx cy true)

/-- DS1. -/
theorem test_cls : seen (fun t => (cell t 5, flags t)) (light 5 0 (start 0x00E0 [])) = some (false, some (true, false, false)) :=
  by decide +kernel
/-- DS3: the four cells, two neighbours, the flag and the outputs. -/
theorem test_drw_wraps :
    seen (fun t => ([5, 62, 2046, 2047, 63, 2045].map (cell t), t.reg VF, flags t))
      (poke 0x20C 0xC0 (poke 0x20D 0x81 ((start 0xD012 [(0, 62), (1, 31)]).setIndex 0x20C)))
      = some ([true, true, true, true, false, false], 0, some (true, false, false)) := by decide +kernel
/-- DS7: a collision. -/
theorem test_drw_collides :
    seen (fun t => ([4, 5, 6, 7, 9].map (cell t), t.reg VF))
      (poke 0x300 0xF0 (light 6 0 (light 9 0 ((start 0xD011 [(0, 4)]).setIndex 0x300))))
      = some ([true, true, false, true, true], 1) := by decide

/-- T2: a tick is due at exactly one period, and comes before the read. -/
theorem test_ldVxDt_tick :
    seen (fun t => (t.reg 1, t.dt, decide (t.lastTick = 50 / 3)))
      ((start 0xF107 [] { quiet with now := 50 / 3 }).setDt 0x2A) = some (0x29, 0x29, true) := by decide +kernel
/-- T3: no tick just before. -/
theorem test_ldVxDt_no_tick :
    seen (fun t => (t.reg 1, decide (t.lastTick = 0))) ((start 0xF107 [] { quiet with now := 1666 / 100 }).setDt 0x2A)
      = some (0x2A, true) := by decide +kernel
/-- T4. -/
theorem test_ldDtVx : seen (·.dt) ((start 0xF115 [(1, 0x3C)] { quiet with now := 17 }).setDt 5) = some 0x3C := by
  decide +kernel
/-- T9. -/
theorem test_ldStVx : seen (fun t => (t.st, flags t)) (start 0xF118 [(1, 1)]) = some (1, some (false, true, false)) := by
  decide +kernel
/-- T8, its first step: a timer at zero stays there. -/
theorem test_tick_floor : seen (fun t => (t.dt, t.st)) ((start 0x0000 [] { quiet with now := 20 }).setSt 1) = some (0, 0) := by
  decide +kernel

/-- K1: the event that comes with `LD Vx, K` is lost. -/
theorem test_ldVxK :
    seen (fun t => (t.waiting.map Fin.val, t.pc, t.reg 3)) (start 0xF30A [(3, 0x55)] { quiet with keyEvent := some 7 })
      = some (some 3, 0x202, 0x55) := by decide
/-- K2: a stalled step. -/
theorem test_stalled :
    seen (fun t => (t.waiting.isSome, [t.pc.toNat, t.dt.toNat], flags t)) (((start 0x7301 [] { quiet with now := 100 }).setWaiting (some 3)).setDt 9)
      = some (true, [0x200, 9], some (false, false, true)) := by decide +kernel
/-- K4: delivery, tick, and the next instruction in one step. -/
theorem test_delivery :
    seen (fun t => (t.waiting.isSome, [t.reg 3, t.dt], flags t))
      (((start 0x7301 [(3, 0x55)] { quiet with keyEvent := some 0xF, now := 300 }).setWaiting (some 3)).setDt 9)
      = some (false, [0x10, 8], some (false, false, false)) := by decide +kernel

/-- R241: the ROM of program P1 stands at 0x200, the font at 0. -/
theorem test_reset_loads_rom :
    (match construct [0x60, 0x0A, 0xA0, 0x00] 0 with
      | .next s => [s.mem.read 0x200, s.mem.read 0x201, s.mem.read 0x202, s.mem.read 0x203, s.mem.read 0x000, s.mem.read 0x04F]
      | .fault _ => []
      | .refused _ => []) = [0x60, 0x0A, 0xA0, 0x00, 0xF0, 0x80] := by decide

/-- R204: after CF8 the machine is in the fault state. -/
theorem test_fault_state :
    (faultState (start 0x00EE [])).map (fun u => (u.fault, u.pc, u.snapshot.isNone)) = some (some .stackUnderflow, 0x200, true) :=
  by decide

/-! ## Witnesses: states and operands that meet the hypotheses of the statements, clause by clause -/

/-- A stalled state: waiting for `V3`, no key event. -/
def stalled : State := (start 0x7301 [(3, 0x55)]).setWaiting (some 3)

/-- The same with a key event. -/
def delivering : State := (start 0x7301 [(3, 0x55)] { quiet with keyEvent := some 0xF }).setWaiting (some 3)

theorem stalled_is_stalled : Stalled stalled := ⟨rfl, rfl, rfl⟩

theorem witness_DecodeOfEncodeIsTheInstruction :
    (Instr.sys 0xFFF).wellFormed = true ∧ (Instr.nop 0xF1FF).wellFormed = true ∧
      (Instr.drw 15 15 15).wellFormed = true := by decide

/-- The two overlaps: the words 00E0 and 00EE also match row 2. -/
theorem witness_DecodeIsTheFirstMatchingRow :
    rowMatches 0x00E0 (opcodeRows.getD 2 (0, 1)) = true ∧ 2 ≠ firstRow 0x00E0 ∧
      rowMatches 0x00EE (opcodeRows.getD 2 (0, 1)) = true ∧ 2 ≠ firstRow 0x00EE := by decide

/-- The ends of each clause's range, in and out. -/
theorem witness_UnmatchedWordsDecodeToNop :
    [0x5001, 0x5FFF, 0x8008, 0x8FFD, 0x8FFF, 0x9001, 0x9FFF, 0xE000, 0xEFFF, 0xF000, 0xFFFF].all
        (fun w => decode w == .nop w) = true ∧
      [0x4FFF, 0x5000, 0x5FF0, 0x8007, 0x800E, 0x9FF0, 0xA000, 0xE09E, 0xE0A1, 0xF007, 0xFF65].all
        (fun w => decode w != .nop w) = true := by decide

theorem witness_FamiliesZeroAndEDecode :
    decode 0x00E0 = .cls ∧ decode 0x00EE = .ret ∧ decode 0x0000 = .sys 0x000 ∧ decode 0x0FFF = .sys 0xFFF ∧
      decode 0xE09E = .skp 0 ∧ decode 0xEF9E = .skp 15 ∧ decode 0xE0A1 = .sknp 0 ∧ decode 0xEFA1 = .sknp 15 ∧
      decode 0xE09F = .nop 0xE09F := by decide

theorem witness_StepRunsTheDecodedInstruction :
    (start 0x6AFF []).fault = none ∧ (deliverKey (start 0x6AFF [])).waiting = none ∧
      (Instr.ldImm 10 0xFF).wellFormed = true ∧
      (start 0x6AFF []).readByte (start 0x6AFF []).pc = (encode (.ldImm 10 0xFF)).extractLsb' 8 8 ∧
      (start 0x6AFF []).readByte ((start 0x6AFF []).pc + 1) = (encode (.ldImm 10 0xFF)).extractLsb' 0 8 := by decide

/-- At the last word, and at the ends of memory: the two bytes of a fetch at 0xFFF are 0xFFF and 0x000. -/
theorem witness_PlacedWordIsTheNextInstruction :
    0xFFFF < 65536 ∧ (0x001 : Addr) ≠ ea 0x0FFF ∧ (0x001 : Addr) ≠ ea (0x0FFF + 1) ∧ (0x000 : Addr) = ea (0x0FFF + 1) := by
  decide

/-- Both clauses; the event in the second comes to a machine that does not wait. -/
theorem witness_KeyDeliveryFillsTheWaitingRegister :
    delivering.waiting = some 3 ∧ delivering.input.keyEvent = some 0xF ∧ stalled.input.keyEvent = none ∧
      (start 0x7301 [] { quiet with keyEvent := some 0 }).waiting = none := ⟨rfl, rfl, rfl, rfl⟩

theorem witness_StalledStepChangesNothing : Stalled stalled := stalled_is_stalled

/-- A tick at exactly one period, none just before; an instruction that is no timer write. -/
theorem witness_TimerTickCountsBothTimersDown :
    tickDue parameters (start 0x6AFF [] { quiet with now := 50 / 3 }) = true ∧
      tickDue parameters (start 0x6AFF [] { quiet with now := 1666 / 100 }) = false := by decide +kernel

theorem witness_TimerTickCountsBothTimersDown_instruction :
    (∀ x, Instr.cls ≠ .ldDtVx x ∧ Instr.cls ≠ .ldStVx x) ∧ ∃ t, exec .cls State.reset = .next t :=
  ⟨fun _ => ⟨by simp, by simp⟩, _, rfl⟩

theorem witness_TimerGateOpensAfterOnePeriod :
    decide ((50 / 3 : Rat) ≤ (start 0 [] { quiet with now := 50 / 3 }).input.now - (start 0 [] quiet).lastTick) = true ∧
      decide ((start 0 [] { quiet with now := 1666 / 100 }).input.now - (start 0 [] quiet).lastTick < (50 / 3 : Rat)) = true := by
  decide +kernel

/-- Both outcomes of the conclusion occur. -/
theorem witness_TickStampMovesByAtLeastOnePeriod :
    (seen (fun t => decide (t.lastTick = 50 / 3)) (start 0x6AFF [] { quiet with now := 50 / 3 })) = some true ∧
      (seen (fun t => decide (t.lastTick = 0)) stalled) = some true := by decide +kernel

theorem witness_SoundFlagIsTheSoundTimer : Stalled stalled ∧ ∃ t, step stalled = .next t :=
  ⟨stalled_is_stalled, _, rfl⟩

theorem runs_cls : Runs (start 0x00E0 []) .cls := ⟨rfl, rfl, by decide⟩
theorem runs_drw : Runs (start 0xDFFF []) (.drw 15 15 15) := ⟨rfl, rfl, by decide⟩
theorem runs_ldVxK : Runs (start 0xFF0A []) (.ldVxK 15) := ⟨rfl, rfl, by decide⟩
theorem runs_sys : Runs (start 0x0000 []) (.sys 0) := ⟨rfl, rfl, by decide⟩
theorem runs_nop : Runs (start 0xFFFF []) (.nop 0xFFFF) := ⟨rfl, rfl, by decide⟩

theorem witness_ReportOfAnExecutedInstruction :
    (Runs (start 0x00E0 []) .cls ∧ ∃ t, step (start 0x00E0 []) = .next t) ∧
      (Runs (start 0xDFFF []) (.drw 15 15 15) ∧ ∃ t, step (start 0xDFFF []) = .next t) ∧
      (Runs (start 0x0000 []) (.sys 0) ∧ ∃ t, step (start 0x0000 []) = .next t) :=
  ⟨⟨runs_cls, _, rfl⟩, ⟨runs_drw, _, rfl⟩, ⟨runs_sys, _, rfl⟩⟩

/-- The four clauses: a stalled step, a step of `LD Vx, K`, a step of another instruction, a machine without a fault. -/
theorem witness_WaitForAKeyIsATwoStateMachine :
    (Stalled stalled ∧ ∃ t, step stalled = .next t) ∧
      (Runs (start 0xFF0A []) (.ldVxK 15) ∧ ∃ t, step (start 0xFF0A []) = .next t) ∧
      (Runs (start 0x0000 []) (.sys 0) ∧ (∀ x, Instr.sys 0 ≠ .ldVxK x) ∧ ∃ t, step (start 0x0000 []) = .next t) ∧
      State.reset.fault = none :=
  ⟨⟨stalled_is_stalled, _, rfl⟩, ⟨runs_ldVxK, _, rfl⟩, ⟨runs_sys, by simp, _, rfl⟩, rfl⟩

theorem witness_ProgramCounterDuringAWait :
    Runs (start 0xFF0A []) (.ldVxK 15) ∧ Stalled stalled ∧
      (delivering.fault = none ∧ delivering.waiting = some 3 ∧ delivering.input.keyEvent = some 0xF) :=
  ⟨runs_ldVxK, stalled_is_stalled, rfl, rfl, rfl⟩

/-- A step of `SYS` uses neither the random byte nor the keys; the machine does not wait; a stalled state. -/
theorem witness_UnusedInputsDoNotMatter :
    (start 0x0000 []).inputs = quiet :: [] ∧ (∀ x kk, ¬ Runs (start 0x0000 []) (.rnd x kk)) ∧
      (∀ x, ¬ Runs (start 0x0000 []) (.skp x) ∧ ¬ Runs (start 0x0000 []) (.sknp x)) ∧
      (start 0x0000 []).waiting = none ∧ stalled.inputs = quiet :: [] ∧ Stalled stalled ∧ quiet.keyEvent = none := by
  have h := runs_sys.2.2
  refine ⟨rfl, fun x kk hr => ?_, fun x => ⟨fun hr => ?_, fun hr => ?_⟩, rfl, rfl, stalled_is_stalled, rfl⟩ <;>
    exact absurd (h.symm.trans hr.2.2) (by simp)

theorem witness_EveryInstructionCompletes : (State.reset.setStack [0x204]).stack ≠ [] := by decide

theorem witness_NothingChangesOutsideTheFootprint : ∃ t, exec (.storeRegs 15) State.reset = .next t := ⟨_, rfl⟩

theorem witness_NoOpsOnlyAdvance : Runs (start 0x0000 []) (.sys 0) ∧ Runs (start 0xFFFF []) (.nop 0xFFFF) :=
  ⟨runs_sys, runs_nop⟩

/-- The targets 0, 1 and 0xFFF. -/
theorem witness_JumpStepsLandOnTheTarget :
    Runs (start 0x1000 []) (.jp 0) ∧ Runs (start 0x2001 []) (.call 1) ∧ Runs (start 0xBFFF [(0, 0xFF)]) (.jpV0 0xFFF) :=
  ⟨⟨rfl, rfl, by decide⟩, ⟨rfl, rfl, by decide⟩, ⟨rfl, rfl, by decide⟩⟩

theorem witness_ReturnPopsIntoTheProgramCounter : (State.reset.setStack [0x300, 0xFFFF]).stack = [0x300] ++ [0xFFFF] := rfl

/-- A `CALL 0x208` at 0x200, and `RET` at 0x208. -/
def callThenRet : State := poke 0x208 0x00 (poke 0x209 0xEE { start 0x2208 [] with inputs := [quiet, quiet] })

theorem witness_CallThenReturnComesBack :
    Runs callThenRet (.call 0x208) ∧ ∃ t, step callThenRet = .next t ∧ Runs t .ret :=
  ⟨⟨rfl, rfl, by decide⟩, _, rfl, rfl, rfl, by decide⟩

theorem runs_ret : Runs (start 0x00EE []) .ret := ⟨rfl, rfl, by decide⟩

theorem witness_ReturnOnAnEmptyStackFaults : (start 0x00EE []).stack = [] ∧ Runs (start 0x00EE []) .ret :=
  ⟨rfl, runs_ret⟩

theorem witness_FaultStateIsPreciseAndFinal :
    (start 0x00EE []).fault = none ∧ step (start 0x00EE []) = .fault .stackUnderflow := ⟨rfl, rfl⟩

theorem witness_FiniteStackOverflows :
    ({ parameters with stackDepth := some 16 } : Config).stackDepth = some 16 ∧
      (State.reset.setStack (List.replicate 16 0x200)).stack.length = 16 ∧
      (State.reset.setStack (List.replicate 15 0x200)).stack.length < 16 := by decide

/-- Equal and unequal operands, with an immediate and with a register. -/
theorem witness_ComparisonSkips :
    State.reset.reg 1 = 0 ∧ State.reset.reg 1 ≠ 0xFF ∧ State.reset.reg 1 = State.reset.reg 2 ∧
      (State.reset.setReg 1 7).reg 1 ≠ (State.reset.setReg 1 7).reg 2 := by decide

/-- Key 15 pressed, key 15 released, and the value 16, which names no key. -/
theorem witness_KeySkips :
    (((start 0 [(1, 15)] { quiet with keys := 0x8000 }).reg 1).toNat ≤ 15 ∧
        (start 0 [(1, 15)] { quiet with keys := 0x8000 }).input.keys.getLsbD 15 = true) ∧
      (((start 0 [(1, 15)] { quiet with keys := 0x7FFF }).reg 1).toNat ≤ 15 ∧
        (start 0 [(1, 15)] { quiet with keys := 0x7FFF }).input.keys.getLsbD 15 = false) ∧
      15 < ((start 0 [(1, 16)]).reg 1).toNat := by decide

/-- A register that is not the flag register, for this statement and the next two. -/
theorem witness_AddReportsTheCarry : (14 : RegIdx) ≠ VF := by decide

theorem witness_SubtractionsReportStrictlyGreater : (0 : RegIdx) ≠ VF := by decide

theorem witness_ShiftsReportTheBitShiftedOut : (0 : RegIdx) ≠ VF := by decide

theorem witness_FlagWriteOrder :
    (14 : RegIdx) ≠ VF ∧ parameters.flagOrder = .flagThenResult ∧
      ({ parameters with flagOrder := .resultThenFlag } : Config).flagOrder = .resultThenFlag := by decide

theorem witness_BlockStore : (15 : RegIdx) ≤ 15 ∧ (0 : RegIdx) ≠ 15 := by decide

theorem witness_BlockLoad : (14 : RegIdx) ≤ 14 ∧ (14 : RegIdx) < 15 := by decide

theorem witness_ReadAfterWrite : (0xFFF : Addr) ≠ 0x000 ∧ State.reset.mem.wf := ⟨by decide, by decide⟩

/-- Each clause at its boundary: a fetch at 0xFFF and at 0xFFE, a block of two bytes at 0xFFF and at 0xFFE. -/
theorem witness_FaultPolicyRaisesAddressFault :
    ({ parameters with addrPolicy := .fault } : Config).addrPolicy = .fault ∧
      (∃ k < 2, 4095 < (byteAddr 0x0FFF k).toNat) ∧ (∀ k < 2, (byteAddr 0x0FFE k).toNat ≤ 4095) ∧
      (2#4).toNat = 2 ∧ (State.reset.setPc 0x0FFF).pc = 0x0FFF ∧ (State.reset.setIndex 0x0FFE).index = 0x0FFE := by
  decide

theorem witness_ClearBlanksTheDisplay : Runs (start 0x00E0 []) .cls := runs_cls

/-- A one-pixel sprite on a blank display: the first draw sets the pixel. -/
theorem witness_DrawingTwiceRestoresTheDisplay :
    (0 : RegIdx) ≠ VF ∧ (1 : RegIdx) ≠ VF ∧
      (match exec (.drw 0 1 1) (poke 0x300 0x80 (State.reset.setIndex 0x300)) with
        | .next t => Display.get t.disp 0 0
        | .fault _ => false
        | .refused _ => false) = true ∧ Display.get State.reset.disp 0 0 = false := by decide +kernel

theorem witness_TimerWrites : Runs (start 0xFF18 []) (.ldStVx 15) := ⟨rfl, rfl, by decide⟩

theorem witness_TickComesBeforeTheInstruction :
    Runs (start 0xF107 []) (.ldVxDt 1) ∧ Runs (start 0xF115 []) (.ldDtVx 1) ∧ Runs (start 0xF118 []) (.ldStVx 1) :=
  ⟨⟨rfl, rfl, by decide⟩, ⟨rfl, rfl, by decide⟩, ⟨rfl, rfl, by decide⟩⟩

/-- The longest ROM, and one byte more. -/
theorem witness_ResetLoadsTheRom :
    (List.replicate 3584 (0xFF : Byte)).length ≤ 3584 ∧ 3584 < (List.replicate 3585 (0xFF : Byte)).length :=
  ⟨by rw [List.length_replicate], by rw [List.length_replicate]; decide⟩

theorem witness_ResetMeetsTheInvariant : ∃ s, construct [0x60, 0x0A] 0 = .next s := ⟨_, rfl⟩

/-- The reset state meets the invariant, and a step of it with a placed word answers a next state. -/
theorem witness_EveryStepKeepsTheInvariant : Inv (start 0x6AFF []) ∧ ∃ t, step (start 0x6AFF []) = .next t :=
  ⟨⟨by decide, rfl, fun o ho => by cases ho⟩, _, rfl⟩

end Sys2Proof.Tests
end

/-! PROOF. The statements about key delivery, the wait for a key and the reported sound flag
(spec/40_step_cycle.md R102, R111, R116), after the facts about the phases of a step they need. -/

namespace Sys2Proof.Machine

variable {s t : State}

/-! ### Key delivery (R102) -/

theorem zextKey_toNat (k : KeyCode) : (zextKey k).toNat = k.toNat :=
  BitVec.toNat_setWidth_of_le (by decide)

/-- With a register that waits and a key event, key delivery acts. -/
theorem deliverKey_of_keyEvent {r : RegIdx} {k : KeyCode} (hw : s.waiting = some r)
    (hk : s.input.keyEvent = some k) : deliverKey s = (s.setReg r (zextKey k)).setWaiting none := by
  simp only [deliverKey, hw, hk]

/-- Without a register that waits, or without a key event, it does nothing. -/
theorem deliverKey_idle (h : s.waiting = none ∨ s.input.keyEvent = none) : deliverKey s = s := by
  rcases deliverKey_cases s with he | ⟨r, k, hw, hk, -⟩
  · exact he
  · simp [hw, hk] at h

/-- A write to one register and to the stall latch changes nothing else. -/
theorem changesOnly_setReg_setWaiting (s : State) (r : RegIdx) (b : Byte) (w : Option RegIdx) :
    ChangesOnly { regs := [r], waiting := true } s ((s.setReg r b).setWaiting w) where
  regs j hj := by
    have hne : j ≠ r := by simpa using hj
    rw [State.setWaiting_reg, State.reg_setReg_ne s hne]
  index _ := rfl
  pc _ := rfl
  stack _ := rfl
  dt _ := rfl
  st _ := rfl
  mem _ _ := rfl
  disp _ := rfl
  waiting h := nomatch h
  lastTick := rfl
  fault := rfl
  inputs := rfl
  stepNo := rfl
  snapshot := rfl

/-! ### What the phases before the fetch leave alone -/

@[simp] theorem deliverKey_pc (s : State) : (deliverKey s).pc = s.pc := by
  obtain ⟨v, w, h⟩ := deliverKey_keeps s
  rw [h]

@[simp] theorem deliverKey_mem (s : State) : (deliverKey s).mem = s.mem := by
  obtain ⟨v, w, h⟩ := deliverKey_keeps s
  rw [h]

@[simp] theorem beforeFetch_pc (s : State) : (beforeFetch s).pc = s.pc := deliverKey_pc s

@[simp] theorem beforeFetch_mem (s : State) : (beforeFetch s).mem = s.mem := deliverKey_mem s

/-- The fetch sees `PC` and memory as the step found them (R105). -/
@[simp] theorem fetchWord_beforeFetch (s : State) : fetchWord (beforeFetch s) = fetchWord s := by
  simp only [fetchWord, State.readByte, beforeFetch_pc, beforeFetch_mem]

/-! ### How a step ends (R103, R108, R109) -/

@[simp] theorem endStalled_pc (s : State) : (endStalled s).pc = s.pc := rfl

@[simp] theorem endStalled_st (s : State) : (endStalled s).st = s.st := rfl

@[simp] theorem endStep_pc (c : Bool) (s : State) : (endStep c s).pc = s.pc + 2 := rfl

@[simp] theorem endStep_waiting (c : Bool) (s : State) : (endStep c s).waiting = s.waiting := rfl

/-- Both ends of a step report last, so the outputs are read from the state the step leaves. -/
theorem step_snapshot (h : step s = .next t) : ∃ c w, t.snapshot = some (snapshotOf c w t) := by
  obtain ⟨-, ⟨r, -, rfl⟩ | ⟨-, u, -, rfl⟩⟩ := step_next_cases h
  · exact ⟨false, true, rfl⟩
  · exact ⟨_, false, rfl⟩

/-- A step whose instruction completes ends with the advance and the report. -/
theorem step_of_runs_of_exec {i : Instr} {u : State} (h : Runs s i) (he : exec i (beforeFetch s) = .next u) :
    step s = .next (endStep (changesDisplay i) u) := by
  rw [step_of_runs h, he]

/-- `LD Vx, K` sets the stall latch (R181). -/
theorem exec_ldVxK (x : RegIdx) (s : State) : exec (.ldVxK x) s = .next (s.setWaiting (some x)) := rfl

/-! ### The statements -/

/-- Settles O9: key delivery is one register write and the clearing of the latch, or the identity. -/
theorem keyDeliveryFillsTheWaitingRegister : Obligations.KeyDeliveryFillsTheWaitingRegister := by
  unfold Obligations.KeyDeliveryFillsTheWaitingRegister
  refine ⟨fun s r k hw hk => ?_, fun s h => deliverKey_idle h⟩
  rw [deliverKey_of_keyEvent hw hk]
  refine ⟨?_, rfl, changesOnly_setReg_setWaiting s r _ none⟩
  rw [State.setWaiting_reg, State.reg_setReg_same, zextKey_toNat]

/-- Settles O14: the report of either kind of step is that of the state it leaves. -/
theorem soundFlagIsTheSoundTimer : Obligations.SoundFlagIsTheSoundTimer := by
  unfold Obligations.SoundFlagIsTheSoundTimer
  intro s t h
  constructor
  · obtain ⟨c, w, ho⟩ := step_snapshot h
    exact ⟨_, ho, by rw [snapshotOf_soundOn, bne_iff_ne]⟩
  · intro hs
    rw [step_of_stalled hs] at h
    cases h
    exact endStalled_st s

/-- Settles O18: no phase but the advance moves `PC` in the step of `LD Vx, K`, and a stalled step or key delivery does
not move it at all. -/
theorem programCounterDuringAWait : Obligations.ProgramCounterDuringAWait := by
  unfold Obligations.ProgramCounterDuringAWait
  refine ⟨fun s x hr => ?_, fun s hs => ?_, fun s r k hf hw hk => ?_⟩
  · refine ⟨_, step_of_runs_of_exec hr (exec_ldVxK x _), ?_, ?_⟩
    · rw [endStep_pc, State.setWaiting_pc, beforeFetch_pc]
    · rw [endStep_waiting, State.setWaiting_waiting]
  · exact ⟨endStalled s, step_of_stalled hs, endStalled_pc s⟩
  · refine ⟨hf, ?_, ?_⟩
    · rw [deliverKey_of_keyEvent hw hk, State.setWaiting_waiting]
    · rw [fetchWord_beforeFetch]
      rfl

end Sys2Proof.Machine

/-! PROOF. The statement about `SYS` and the fallback no-op (spec/41_control_flow.md R120, R121), after what a step
leaves alone around its execute phase. -/

namespace Sys2Proof.Machine

variable {s : State}

/-! ### The inputs, the step number and the last outputs, before the fetch -/

@[simp] theorem deliverKey_inputs (s : State) : (deliverKey s).inputs = s.inputs := by
  obtain ⟨v, w, h⟩ := deliverKey_keeps s
  rw [h]

@[simp] theorem deliverKey_stepNo (s : State) : (deliverKey s).stepNo = s.stepNo := by
  obtain ⟨v, w, h⟩ := deliverKey_keeps s
  rw [h]

@[simp] theorem deliverKey_snapshot (s : State) : (deliverKey s).snapshot = s.snapshot := by
  obtain ⟨v, w, h⟩ := deliverKey_keeps s
  rw [h]

@[simp] theorem beforeFetch_inputs (s : State) : (beforeFetch s).inputs = s.inputs := deliverKey_inputs s

@[simp] theorem beforeFetch_stepNo (s : State) : (beforeFetch s).stepNo = s.stepNo := deliverKey_stepNo s

@[simp] theorem beforeFetch_snapshot (s : State) : (beforeFetch s).snapshot = s.snapshot := deliverKey_snapshot s

/-! ### The end of a step (R108, R109) -/

/-- Apart from the inputs, the step number and the outputs, which belong to the step and not to the instruction, the end
of a step changes `PC` alone. -/
theorem changesOnly_endStep (c : Bool) (u : State) :
    ChangesOnly { pc := true } u
      { endStep c u with inputs := u.inputs, stepNo := u.stepNo, snapshot := u.snapshot } where
  regs _ _ := rfl
  index _ := rfl
  pc h := nomatch h
  stack _ := rfl
  dt _ := rfl
  st _ := rfl
  mem _ _ := rfl
  disp _ := rfl
  waiting _ := rfl
  lastTick := rfl
  fault := rfl
  inputs := rfl
  stepNo := rfl
  snapshot := rfl

theorem endStep_snapshot (c : Bool) (u : State) :
    (endStep c u).snapshot = some (snapshotOf c false (advancePc u)) := rfl

/-! ### The two no-ops -/

/-- `SYS nnn` changes nothing (R120). -/
theorem exec_sys (nnn : Addr) (s : State) : exec (.sys nnn) s = .next s := rfl

/-- The fallback no-op changes nothing, whatever word it carries (R121). -/
theorem exec_nop (w : Word) (s : State) : exec (.nop w) s = .next s := rfl

/-- The step of an instruction whose execute phase changes nothing is the advance and the report (R108, R109). -/
theorem step_of_runs_of_exec_self {i : Instr} (h : Runs s i) (hi : ∀ u, exec i u = .next u) :
    ∃ t o, step s = .next t ∧ t.pc = s.pc + 2 ∧
      ChangesOnly { pc := true } (beforeFetch s)
        { t with inputs := s.inputs, stepNo := s.stepNo, snapshot := s.snapshot } ∧
      t.snapshot = some o ∧ o.displayChanged = changesDisplay i := by
  refine ⟨_, _, step_of_runs_of_exec h (hi _), ?_, ?_, endStep_snapshot _ _, snapshotOf_displayChanged _ _ _⟩
  · rw [endStep_pc, beforeFetch_pc]
  · have hends := changesOnly_endStep (changesDisplay i) (beforeFetch s)
    rwa [beforeFetch_inputs, beforeFetch_stepNo, beforeFetch_snapshot] at hends

/-- Settles O22: both no-ops have the identity as their execute phase, so their step is the advance and the report. -/
theorem noOpsOnlyAdvance : Obligations.NoOpsOnlyAdvance := by
  unfold Obligations.NoOpsOnlyAdvance
  refine ⟨exec_sys, exec_nop, fun s i hr hi => ?_, by decide⟩
  obtain ⟨nnn, rfl⟩ | ⟨w, rfl⟩ := hi
  · exact step_of_runs_of_exec_self hr (exec_sys nnn)
  · exact step_of_runs_of_exec_self hr (exec_nop w)

end Sys2Proof.Machine

/-! PROOF. The statement about the comparison skips (spec/42_skips.md R130 to R133), after what "skip-next" (R136) does
to `PC` and leaves alone. -/

namespace Sys2Proof.Machine

variable {s : State}

/-! ### "skip-next" (R136) -/

@[simp] theorem skipIf_true (s : State) : skipIf true s = s.setPc (s.pc + 2) := rfl

@[simp] theorem skipIf_false (s : State) : skipIf false s = s := rfl

/-- A state compared with itself stays within every footprint. -/
theorem changesOnly_refl (f : Footprint) (s : State) : ChangesOnly f s s := by
  constructor <;> intros <;> rfl

/-- A write to `PC` changes nothing else. -/
theorem changesOnly_setPc (a : Word) (s : State) : ChangesOnly { pc := true } s (s.setPc a) := by
  constructor <;> simp

/-- Whether it skips or not, "skip-next" touches `PC` alone. -/
theorem changesOnly_skipIf (c : Bool) (s : State) : ChangesOnly { pc := true } s (skipIf c s) := by
  cases c with
  | false => exact changesOnly_refl _ s
  | true => exact changesOnly_setPc _ s

/-- With the uniform advance (R108) a skip that is taken moves `PC` by 4. -/
theorem skipIf_true_pc_advance (s : State) : (skipIf true s).pc + 2 = s.pc + 4 := by
  rw [skipIf_true, State.setPc_pc, BitVec.add_assoc]
  rfl

/-- A skip instruction: `P` is a condition under which it skips, `Q` one under which it does not. -/
theorem exec_skip_net {i : Instr} {c : Bool} {P Q : Prop} (hi : exec i s = .next (skipIf c s))
    (hP : P → c = true) (hQ : Q → c = false) :
    ∃ t, exec i s = .next t ∧ ChangesOnly { pc := true } s t ∧
      (P → t.pc + 2 = s.pc + 4) ∧ (Q → t.pc + 2 = s.pc + 2) := by
  refine ⟨skipIf c s, hi, changesOnly_skipIf c s, fun h => ?_, fun h => ?_⟩
  · rw [hP h, skipIf_true_pc_advance]
  · rw [hQ h, skipIf_false]

/-! ### The four comparisons -/

/-- `SE Vx, kk` (R130). -/
theorem exec_seImm (x : RegIdx) (kk : Byte) (s : State) :
    exec (.seImm x kk) s = .next (skipIf (s.reg x == kk) s) := rfl

/-- `SNE Vx, kk` (R131). -/
theorem exec_sneImm (x : RegIdx) (kk : Byte) (s : State) :
    exec (.sneImm x kk) s = .next (skipIf (s.reg x != kk) s) := rfl

/-- `SE Vx, Vy` (R132). -/
theorem exec_seReg (x y : RegIdx) (s : State) :
    exec (.seReg x y) s = .next (skipIf (s.reg x == s.reg y) s) := rfl

/-- `SNE Vx, Vy` (R133). -/
theorem exec_sneReg (x y : RegIdx) (s : State) :
    exec (.sneReg x y) s = .next (skipIf (s.reg x != s.reg y) s) := rfl

/-- Settles O30: each comparison is a "skip-next" on its Boolean test, which is true or false as the operands are equal
or not. -/
theorem comparisonSkips : Obligations.ComparisonSkips := by
  unfold Obligations.ComparisonSkips
  intro x y kk s
  refine ⟨?_, ?_, ?_, ?_⟩
  · exact exec_skip_net (exec_seImm x kk s) beq_iff_eq.mpr beq_eq_false_iff_ne.mpr
  · exact exec_skip_net (exec_sneImm x kk s) bne_iff_ne.mpr bne_eq_false_iff_eq.mpr
  · exact exec_skip_net (exec_seReg x y s) beq_iff_eq.mpr beq_eq_false_iff_ne.mpr
  · exact exec_skip_net (exec_sneReg x y s) bne_iff_ne.mpr bne_eq_false_iff_eq.mpr

end Sys2Proof.Machine

/-! PROOF. The statement about the loads of a register from an immediate, a register and the delay timer
(spec/43_load_alu.md R141, R143; R180), after what a write to one register leaves alone. -/

namespace Sys2Proof.Machine

variable {s : State}

/-! ### One register write -/

/-- A write to one register changes nothing else. -/
theorem changesOnly_setReg (s : State) (x : RegIdx) (b : Byte) : ChangesOnly { regs := [x] } s (s.setReg x b) where
  regs j hj := by
    have hne : j ≠ x := by simpa using hj
    exact State.reg_setReg_ne s hne b
  index _ := rfl
  pc _ := rfl
  stack _ := rfl
  dt _ := rfl
  st _ := rfl
  mem _ _ := rfl
  disp _ := rfl
  waiting _ := rfl
  lastTick := rfl
  fault := rfl
  inputs := rfl
  stepNo := rfl
  snapshot := rfl

/-- An instruction whose execute phase is the write of `b` to `x` leaves `b` there and everything else as it was. -/
theorem exec_setReg_effect {i : Instr} {x : RegIdx} {b : Byte} (hi : exec i s = .next (s.setReg x b)) :
    ∃ t, exec i s = .next t ∧ t.reg x = b ∧ ChangesOnly { regs := [x] } s t :=
  ⟨s.setReg x b, hi, State.reg_setReg_same s x b, changesOnly_setReg s x b⟩

/-! ### The three loads -/

/-- `LD Vx, kk` (R141). -/
theorem exec_ldImm (x : RegIdx) (kk : Byte) (s : State) : exec (.ldImm x kk) s = .next (s.setReg x kk) := rfl

/-- `LD Vx, Vy` (R143). -/
theorem exec_ldReg (x y : RegIdx) (s : State) : exec (.ldReg x y) s = .next (s.setReg x (s.reg y)) := rfl

/-- `LD Vx, DT` (R180). -/
theorem exec_ldVxDt (x : RegIdx) (s : State) : exec (.ldVxDt x) s = .next (s.setReg x s.dt) := rfl

/-- Settles O32: each of the three loads is the write of its source to `V[x]`, and of nothing else. -/
theorem registerLoads : Obligations.RegisterLoads := by
  unfold Obligations.RegisterLoads
  intro x y kk s
  refine ⟨?_, ?_, ?_⟩
  · exact exec_setReg_effect (exec_ldImm x kk s)
  · exact exec_setReg_effect (exec_ldReg x y s)
  · exact exec_setReg_effect (exec_ldVxDt x s)

end Sys2Proof.Machine

/-! PROOF. The statements about the load of `I` and the instructions that move bytes between registers and memory through
it (spec/44_index_memory.md R160, R163 to R166), after what a write to `I`, a block store and a block load do to a state
and leave alone. -/

namespace Sys2Proof.Machine

/-! ### A write to `I` (R22) -/

/-- A write to `I` changes nothing else. -/
theorem changesOnly_setIndex (a : Word) (s : State) : ChangesOnly { index := true } s (s.setIndex a) := by
  constructor <;> simp

@[simp] theorem zextAddr_toNat (nnn : Addr) : (zextAddr nnn).toNat = nnn.toNat :=
  BitVec.toNat_setWidth_of_le (by decide)

/-! ### The addresses of a block (R51, R166) -/

@[simp] theorem byteAddr_zero (base : Word) : byteAddr base 0 = base := BitVec.add_zero base

theorem byteAddr_one (base : Word) : byteAddr base 1 = base + 1 := rfl

theorem byteAddr_two (base : Word) : byteAddr base 2 = base + 2 := rfl

theorem mem_blockAddrs {base : Word} {count : Nat} {a : Addr} :
    a ∈ blockAddrs base count ↔ ∃ k < count, ea (byteAddr base k) = a := by
  simp [blockAddrs]

/-- The bytes of a block no longer than memory stand at distinct addresses. -/
theorem blockAddrs_nodup (base : Word) {count : Nat} (hc : count ≤ 4096) : (blockAddrs base count).Nodup := by
  refine List.Nodup.map_on (fun j hj k hk h => ?_) List.nodup_range
  rw [List.mem_range] at hj hk
  exact ea_byteAddr_inj base (by omega) (by omega) h

/-- A block of three bytes, its addresses as R163 writes them. -/
theorem blockAddrs_three (base : Word) : blockAddrs base 3 = [ea base, ea (base + 1), ea (base + 2)] := by
  simp [blockAddrs, List.range_succ, byteAddr_one, byteAddr_two]

/-! ### A block store (R163, R164) -/

/-- A block store changes no byte outside the block, no register and not `I`. -/
theorem changesOnly_writeBytes (s : State) (base : Word) (count : Nat) (f : Nat → Byte) :
    ChangesOnly { mem := blockAddrs base count } s (s.setMem (writeBytes base count f s.mem)) where
  regs _ _ := rfl
  index _ := rfl
  pc _ := rfl
  stack _ := rfl
  dt _ := rfl
  st _ := rfl
  mem a ha := writeBytes_read_other s.mem base count f a fun k hk he => ha (mem_blockAddrs.mpr ⟨k, hk, he⟩)
  disp _ := rfl
  waiting _ := rfl
  lastTick := rfl
  fault := rfl
  inputs := rfl
  stepNo := rfl
  snapshot := rfl

/-- After a block store no longer than memory, byte `k` of the block is the one stored there. -/
theorem readByte_writeBytes (s : State) (base : Word) {count k : Nat} (f : Nat → Byte) (hc : count ≤ 4096)
    (hk : k < count) : (s.setMem (writeBytes base count f s.mem)).readByte (byteAddr base k) = f k :=
  writeBytes_read s.mem base count f hc hk

/-! ### A block load (R165) -/

/-- The loop counter of a block transfer names the register of that number. -/
@[simp] theorem regAt_val (j : RegIdx) : regAt j.val = j := Fin.ofNat_val_eq_self j

/-- A block load of `count` registers reaches every register numbered below `count`. -/
theorem mem_loadedRegs {j : RegIdx} {count : Nat} (h : j.val < count) : j ∈ (List.range count).map regAt :=
  List.mem_map.mpr ⟨j.val, List.mem_range.mpr h, regAt_val j⟩

/-- A block load changes no other register, no byte of memory and not `I`. -/
theorem changesOnly_readIntoRegs (s : State) (base : Word) {count : Nat} (hc : count ≤ 16) :
    ChangesOnly { regs := (List.range count).map regAt } s (readIntoRegs base count s) := by
  have hregs : ∀ j, j ∉ (List.range count).map regAt → (readIntoRegs base count s).reg j = s.reg j := by
    intro j hj
    rw [readIntoRegs_reg s base hc, if_neg fun h => hj (mem_loadedRegs h)]
  obtain ⟨v, hv⟩ := readIntoRegs_keeps s base count
  rw [hv] at hregs ⊢
  exact { regs := hregs, index := fun _ => rfl, pc := fun _ => rfl, stack := fun _ => rfl, dt := fun _ => rfl,
          st := fun _ => rfl, mem := fun _ _ => rfl, disp := fun _ => rfl, waiting := fun _ => rfl, lastTick := rfl,
          fault := rfl, inputs := rfl, stepNo := rfl, snapshot := rfl }

/-! ### The decimal digits of a byte (R163) -/

theorem bcdDigit_hundreds_toNat (v : Byte) : (bcdDigit v 0).toNat = v.toNat / 100 := by
  simp only [bcdDigit, BitVec.toNat_ofNat]
  omega

theorem bcdDigit_tens_toNat (v : Byte) : (bcdDigit v 1).toNat = v.toNat / 10 % 10 := by
  simp only [bcdDigit, BitVec.toNat_ofNat]
  omega

theorem bcdDigit_units_toNat (v : Byte) : (bcdDigit v 2).toNat = v.toNat % 10 := by
  simp only [bcdDigit, BitVec.toNat_ofNat]
  omega

/-! ### The four instructions -/

/-- `LD I, nnn` (R160). -/
theorem exec_ldI (nnn : Addr) (s : State) : exec (.ldI nnn) s = .next (s.setIndex (zextAddr nnn)) := rfl

/-- `LD B, Vx` (R163). -/
theorem exec_ldB (x : RegIdx) (s : State) :
    exec (.ldB x) s = .next (s.setMem (writeBytes s.index 3 (bcdDigit (s.reg x)) s.mem)) :=
  storeBlockIn_default s 3 _

/-- `LD [I], Vx` (R164). -/
theorem exec_storeRegs (x : RegIdx) (s : State) : exec (.storeRegs x) s =
    .next (s.setMem (writeBytes s.index (x.val + 1) (fun k => s.reg (regAt k)) s.mem)) :=
  storeBlockIn_default s (x.val + 1) _

/-- `LD Vx, [I]` (R165). -/
theorem exec_loadRegs (x : RegIdx) (s : State) :
    exec (.loadRegs x) s = .next (readIntoRegs s.index (x.val + 1) s) :=
  loadBlockIn_default s (x.val + 1)

/-- Settles O41: the instruction is a block store of the three digits, and the digits of a byte add up to it. -/
theorem decimalStore : Obligations.DecimalStore := by
  unfold Obligations.DecimalStore
  intro x s
  have hread (k : Nat) (hk : k < 3) := readByte_writeBytes s s.index (bcdDigit (s.reg x)) (by decide) hk
  have h0 := hread 0 (by decide)
  have h1 := hread 1 (by decide)
  have h2 := hread 2 (by decide)
  rw [byteAddr_zero] at h0
  rw [byteAddr_one] at h1
  rw [byteAddr_two] at h2
  rw [← blockAddrs_three]
  refine ⟨_, exec_ldB x s, blockAddrs_nodup s.index (by decide), ?_, ?_, ?_, ?_, changesOnly_writeBytes s _ _ _⟩
  · rw [h0, h1, h2, bcdDigit_hundreds_toNat, bcdDigit_tens_toNat, bcdDigit_units_toNat]
    omega
  · rw [h0, bcdDigit_hundreds_toNat]
    omega
  · rw [h1, bcdDigit_tens_toNat]
    omega
  · rw [h2, bcdDigit_units_toNat]
    omega

/-- Settles O42: the instruction is a block store of `x + 1` registers, which is shorter than memory, so that no byte of
it overwrites another. -/
theorem blockStore : Obligations.BlockStore := by
  unfold Obligations.BlockStore
  intro x s
  refine ⟨_, exec_storeRegs x s, fun j k hjk he => ?_, fun j hj => ?_, changesOnly_writeBytes s _ _ _⟩
  · exact hjk (Fin.ext (ea_byteAddr_inj s.index (by omega) (by omega) he))
  · rw [readByte_writeBytes s s.index _ (by omega) (Nat.lt_succ_of_le hj), regAt_val]

/-- Settles O43: the instruction is a block load of `x + 1` registers, each byte read from the memory before. -/
theorem blockLoad : Obligations.BlockLoad := by
  unfold Obligations.BlockLoad
  intro x s
  have hx : x.val + 1 ≤ 16 := x.isLt
  refine ⟨_, exec_loadRegs x s, fun j hj => ?_, fun j hj => ?_, changesOnly_readIntoRegs s s.index hx⟩
  · rw [readIntoRegs_reg s s.index hx, if_pos (Nat.lt_succ_of_le hj)]
  · rw [readIntoRegs_reg s s.index hx, if_neg (Nat.not_lt.mpr hj)]

/-- Settles O39: the instruction is a write to `I` of the 12-bit field, zero-extended. -/
theorem indexLoad : Obligations.IndexLoad := by
  unfold Obligations.IndexLoad
  intro nnn s
  refine ⟨_, exec_ldI nnn s, ?_, ?_, changesOnly_setIndex _ s⟩
  · rw [State.setIndex_index, zextAddr_toNat]
  · rw [State.setIndex_index, zextAddr_toNat]
    omega

end Sys2Proof.Machine

/-! PROOF. The statement about the two timer writes (spec/46_timers_keys.md R182, R183), after what a write to one timer
leaves alone. -/

namespace Sys2Proof.Machine

/-! ### A write to one timer (R25, R26) -/

/-- A write to `DT` changes nothing else, the tick stamp included. -/
theorem changesOnly_setDt (b : Byte) (s : State) : ChangesOnly { dt := true } s (s.setDt b) := by
  constructor <;> simp

/-- A write to `ST` changes nothing else, the tick stamp included. -/
theorem changesOnly_setSt (b : Byte) (s : State) : ChangesOnly { st := true } s (s.setSt b) := by
  constructor <;> simp

/-! ### The registers before the fetch, the sound timer after the step -/

/-- The timer gate touches no register: the instruction sees them as key delivery leaves them (R104). -/
@[simp] theorem beforeFetch_reg (s : State) (j : RegIdx) : (beforeFetch s).reg j = (deliverKey s).reg j :=
  timerGateIn_reg (deliverKey s) parameters j

/-- The advance and the report leave `ST` as the instruction left it (R108, R109). -/
@[simp] theorem endStep_st (c : Bool) (s : State) : (endStep c s).st = s.st := rfl

/-! ### The two timer writes -/

/-- `LD DT, Vx` (R182). -/
theorem exec_ldDtVx (x : RegIdx) (s : State) : exec (.ldDtVx x) s = .next (s.setDt (s.reg x)) := rfl

/-- `LD ST, Vx` (R183). -/
theorem exec_ldStVx (x : RegIdx) (s : State) : exec (.ldStVx x) s = .next (s.setSt (s.reg x)) := rfl

/-- Settles O50: each instruction is the write of `V[x]` to its timer, and the sound flag a step reports is that of the
`ST` it leaves (R111), here the value just written. -/
theorem timerWrites : Obligations.TimerWrites := by
  unfold Obligations.TimerWrites
  refine ⟨fun x s => ⟨?_, ?_⟩, fun x s hr => ?_⟩
  · exact ⟨_, exec_ldDtVx x s, State.setDt_dt s _, changesOnly_setDt _ s⟩
  · exact ⟨_, exec_ldStVx x s, State.setSt_st s _, changesOnly_setSt _ s⟩
  · have hstep := step_of_runs_of_exec hr (exec_ldStVx x _)
    obtain ⟨⟨o, ho, hsound⟩, -⟩ := soundFlagIsTheSoundTimer s _ hstep
    rw [endStep_st, State.setSt_st, beforeFetch_reg] at hsound
    exact ⟨_, o, hstep, ho, hsound⟩

end Sys2Proof.Machine

/-! PROOF. The statement about the tick of the two timers (spec/40_step_cycle.md R104, R211), after what the timer gate
does with and without a tick due and which instructions leave both timers alone. -/

namespace Sys2Proof.Machine

variable {s t : State}

/-! ### The timer gate (R104, R211) -/

/-- With a tick due the gate is one count-down of each timer, and the stamp moves. -/
theorem timerGate_of_tickDue (h : tickDue parameters s = true) :
    timerGate s = { s with dt := countDown s.dt, st := countDown s.st, lastTick := s.input.now } :=
  (timerGate_eq s parameters).trans (if_pos h)

/-- Without one the gate is closed. -/
theorem timerGate_of_not_tickDue (h : tickDue parameters s = false) : timerGate s = s :=
  (timerGate_eq s parameters).trans (if_neg (Bool.eq_false_iff.mp h))

/-- The floor of the count-down, written as the case split of R211. -/
theorem countDown_toNat_eq_ite (b : Byte) :
    (countDown b).toNat = if 0 < b.toNat then b.toNat - 1 else 0 := by
  rw [countDown_toNat]
  split <;> omega

/-! ### The timers over the execute phase (R25, R26) -/

/-- A change within a footprint without the timers keeps both. -/
theorem ChangesOnly.timers {f : Footprint} (h : ChangesOnly f s t) (hdt : f.dt = false) (hst : f.st = false) :
    t.dt = s.dt ∧ t.st = s.st :=
  ⟨h.dt hdt, h.st hst⟩

/-- A `RET` that completes writes the stack and `PC` alone (R122). -/
theorem exec_ret_next (h : exec .ret s = .next t) : ∃ l a, t = (s.setStack l).setPc a := by
  rcases List.eq_nil_or_concat' s.stack with hs | ⟨l, a, hs⟩
  · simp [exec, execRet, State.pop_nil s hs, raise] at h
  · simp only [exec, execRet, State.pop_concat s hs] at h
    cases h
    exact ⟨l, a, rfl⟩

/-- An instruction that is neither timer write leaves both timers as they are. `RET` may fault and the skips may not
skip, so these name what they write; the registers of a block load come from a loop; every other instruction is a fixed
sequence of writes, none of them to a timer. -/
theorem exec_keeps_timers {i : Instr} (hi : ∀ x, i ≠ .ldDtVx x ∧ i ≠ .ldStVx x) (h : exec i s = .next t) :
    t.dt = s.dt ∧ t.st = s.st := by
  cases i with
  | ldDtVx x => exact absurd rfl (hi x).1
  | ldStVx x => exact absurd rfl (hi x).2
  | ret =>
    obtain ⟨l, a, rfl⟩ := exec_ret_next h
    exact ⟨rfl, rfl⟩
  | seImm | sneImm | seReg | sneReg | skp | sknp =>
    cases h
    exact (changesOnly_skipIf _ s).timers rfl rfl
  | loadRegs x =>
    cases h
    exact (changesOnly_readIntoRegs s s.index x.isLt).timers rfl rfl
  | _ =>
    cases h
    exact ⟨rfl, rfl⟩

/-- Settles O11: the gate with a tick due is a count-down of both timers, without one it is the identity, and no
instruction but the two timer writes has a timer in what it writes. -/
theorem timerTickCountsBothTimersDown : Obligations.TimerTickCountsBothTimersDown := by
  unfold Obligations.TimerTickCountsBothTimersDown
  refine ⟨fun s hdue => ?_, fun s hdue => timerGate_of_not_tickDue hdue, fun i s t hi h => exec_keeps_timers hi h⟩
  rw [timerGate_of_tickDue hdue]
  exact ⟨countDown_toNat_eq_ite s.dt, countDown_toNat_eq_ite s.st⟩

end Sys2Proof.Machine

/-! PROOF. The statements about the encoder and the decoder (spec/30_encoding.md): each inverts the other on the
well-formed instructions, so a word decodes to an instruction exactly when it is that instruction's encoding, and the
statements about single words and families follow. -/

namespace Sys2Proof.Machine

/-! ### Words from their fields (R71, R72) -/

theorem formatFA_of_opField {w : Word} {op : BitVec 4} (hop : opField w = op) : formatFA op (nnnField w) = w := by
  rw [← hop, ← word_eq_formatFA]

theorem formatFI_of_opField {w : Word} {op : BitVec 4} (hop : opField w = op) :
    formatFI op (xField w) (kkField w) = w := by
  rw [← hop, ← word_eq_formatFI]

theorem formatFX_of_fields {w : Word} {op : BitVec 4} {sel : Byte} (hop : opField w = op) (hsel : kkField w = sel) :
    formatFX op (xField w) sel = w := by
  rw [formatFX_eq, ← hsel, formatFI_of_opField hop]

theorem formatFR_of_fields {w : Word} {op n : BitVec 4} (hop : opField w = op) (hn : nField w = n) :
    formatFR op (xField w) (yField w) n = w := by
  rw [← hop, ← hn, ← word_eq_formatFR]

theorem formatFA_inj {op : BitVec 4} {a b : Addr} (h : formatFA op a = formatFA op b) : a = b := by
  rw [← nnnField_formatFA op a, h, nnnField_formatFA]

/-! ### The fields as numbers (R71) -/

theorem opField_toNat (w : Word) : (opField w).toNat = w.toNat / 4096 := by
  simp only [opField, BitVec.extractLsb'_toNat, Nat.shiftRight_eq_div_pow]
  omega

theorem nField_toNat (w : Word) : (nField w).toNat = w.toNat % 16 := by
  simp [nField, BitVec.extractLsb'_toNat]

theorem kkField_toNat (w : Word) : (kkField w).toNat = w.toNat % 256 := by
  simp [kkField, BitVec.extractLsb'_toNat]

theorem nnnField_toNat (w : Word) : (nnnField w).toNat = w.toNat % 4096 := by
  simp [nnnField, BitVec.extractLsb'_toNat]

theorem xField_val (w : Word) : (xField w).val = w.toNat / 256 % 16 := by
  simp [xField, Nat.shiftRight_eq_div_pow]

theorem opField_eq_iff {w : Word} {op : BitVec 4} : opField w = op ↔ w.toNat / 4096 = op.toNat := by
  rw [← BitVec.toNat_inj, opField_toNat]

theorem nField_eq_iff {w : Word} {n : BitVec 4} : nField w = n ↔ w.toNat % 16 = n.toNat := by
  rw [← BitVec.toNat_inj, nField_toNat]

theorem kkField_eq_iff {w : Word} {kk : Byte} : kkField w = kk ↔ w.toNat % 256 = kk.toNat := by
  rw [← BitVec.toNat_inj, kkField_toNat]

/-! ### The words no row matches (R81) -/

@[simp] theorem parameters_strictLowNibble : parameters.strictLowNibble = true := rfl

/-- `isUnmatched` on unbounded numbers. -/
theorem isUnmatched_iff (w : Word) : isUnmatched parameters w = true ↔
    (w.toNat / 4096 = 5 ∧ w.toNat % 16 ≠ 0) ∨ (w.toNat / 4096 = 8 ∧ 8 ≤ w.toNat % 16 ∧ w.toNat % 16 ≠ 14) ∨
    (w.toNat / 4096 = 9 ∧ w.toNat % 16 ≠ 0) ∨
    (w.toNat / 4096 = 14 ∧ w.toNat % 256 ≠ 0x9E ∧ w.toNat % 256 ≠ 0xA1) ∨
    (w.toNat / 4096 = 15 ∧ w.toNat % 256 ∉ [0x07, 0x0A, 0x15, 0x18, 0x1E, 0x29, 0x33, 0x55, 0x65]) := by
  unfold isUnmatched
  split
  case h_6 h5 h8 h9 hE hF =>
    simp only [opField_eq_iff] at h5 h8 h9 hE hF
    simp_all
  all_goals
    rename_i hop
    rw [opField_eq_iff] at hop
    simp [hop, parameters, nField_eq_iff, kkField_eq_iff, nField_toNat]

/-! ### Decoding an encoding -/

/-- A word no row matches decodes to the no-op that carries it (R81), family by family. -/
theorem decode_of_isUnmatched {w : Word} (h : isUnmatched parameters w = true) : decode w = .nop w := by
  unfold isUnmatched at h
  split at h
  case h_1 hop => simp_all [decode, decodeIn]
  case h_2 hop =>
    simp only [decode, decodeIn, hop, decodeFamily8]
    split <;> simp_all
  case h_3 hop => simp_all [decode, decodeIn]
  case h_4 hop =>
    simp only [decode, decodeIn, hop]
    split <;> simp_all
  case h_5 hop =>
    simp only [decode, decodeIn, hop, decodeFamilyF]
    split <;> simp_all
  case h_6 => cases h

/-- Settles O2: each format gives its fields back, and they select the arm of the decoder the instruction came from.
`SYS` needs that its word is neither of the two before the catch-all row. -/
theorem decodeOfEncodeIsTheInstruction : Obligations.DecodeOfEncodeIsTheInstruction := by
  unfold Obligations.DecodeOfEncodeIsTheInstruction
  intro i hi
  cases i with
  | cls | ret => decide
  | sys nnn =>
    have h : nnn ≠ 0x0E0 ∧ nnn ≠ 0x0EE := by simpa [Instr.wellFormed] using hi
    have hcls : formatFA 0#4 nnn ≠ 0x00E0#16 := fun he => h.1 (formatFA_inj (op := 0) he)
    have hret : formatFA 0#4 nnn ≠ 0x00EE#16 := fun he => h.2 (formatFA_inj (op := 0) he)
    simp [encode, decode, decodeIn, hcls, hret]
  | nop w => exact decode_of_isUnmatched hi
  | jp | call | ldI | jpV0 => simp [encode, decode, decodeIn]
  | seImm | sneImm | ldImm | addImm | rnd => simp [encode, decode, decodeIn]
  | seReg | sneReg | drw => simp [encode, decode, decodeIn]
  | ldReg | orReg | andReg | xorReg | addReg | subReg | shr | subnReg | shl =>
    simp [encode, decode, decodeIn, decodeFamily8]
  | skp | sknp => simp [encode, decode, decodeIn]
  | ldVxDt | ldVxK | ldDtVx | ldStVx | addI | ldF | ldB | storeRegs | loadRegs =>
    simp [encode, decode, decodeIn, decodeFamilyF]

/-! ### Encoding what was decoded -/

/-- The words of family 0: the two fixed words, and the catch-all row for the rest (R76). -/
theorem encode_decode_family0 {w : Word} (hop : opField w = 0x0) :
    (decode w).wellFormed = true ∧ encode (decode w) = w := by
  have hw : formatFA 0x0 (nnnField w) = w := formatFA_of_opField hop
  by_cases hcls : w = 0x00E0
  · subst hcls
    decide
  by_cases hret : w = 0x00EE
  · subst hret
    decide
  have hd : decode w = .sys (nnnField w) := by simp_all [decode, decodeIn]
  rw [hd]
  refine ⟨?_, hw⟩
  simp only [Instr.wellFormed, Bool.and_eq_true, bne_iff_ne]
  constructor <;> intro h <;> rw [h] at hw
  · exact hcls hw.symm
  · exact hret hw.symm

/-- The bottom nibbles that select nothing in family 8 (R77). -/
theorem unmatched_nibble_of_not_mem : ∀ n : BitVec 4,
    n ∉ [0x0#4, 0x1#4, 0x2#4, 0x3#4, 0x4#4, 0x5#4, 0x6#4, 0x7#4, 0xE#4] →
      (decide (8 ≤ n.toNat) && n != 0xE#4) = true := by
  decide

/-- The words of family 8, by the bottom nibble (R77). -/
theorem encode_decodeFamily8 {w : Word} (hop : opField w = 0x8) :
    (decodeFamily8 w).wellFormed = true ∧ encode (decodeFamily8 w) = w := by
  unfold decodeFamily8
  split
  case h_10 =>
    refine ⟨?_, rfl⟩
    simp only [Instr.wellFormed, isUnmatched, hop]
    exact unmatched_nibble_of_not_mem _ (by simp_all)
  all_goals
    rename_i hn
    exact ⟨rfl, formatFR_of_fields hop hn⟩

/-- The words of family F, by the bottom byte (R79). -/
theorem encode_decodeFamilyF {w : Word} (hop : opField w = 0xF) :
    (decodeFamilyF w).wellFormed = true ∧ encode (decodeFamilyF w) = w := by
  unfold decodeFamilyF
  split
  case h_10 =>
    refine ⟨?_, rfl⟩
    simp_all [Instr.wellFormed, isUnmatched]
  all_goals
    rename_i hsel
    exact ⟨rfl, formatFX_of_fields hop hsel⟩

/-- Settles O3: along the arms of the decoder. Each arm has read the word's family and, where the row fixes them, its
low nibble or low byte, and the fields that remain are the operands. -/
theorem encodeOfDecodeIsTheWord : Obligations.EncodeOfDecodeIsTheWord := by
  unfold Obligations.EncodeOfDecodeIsTheWord
  intro w
  unfold decode decodeIn
  split
  -- families 0, 8, F and E
  case h_1 hop => simpa only [decode, decodeIn, hop] using encode_decode_family0 hop
  case h_9 hop => exact encode_decodeFamily8 hop
  case h_16 =>
    refine encode_decodeFamilyF ?_
    generalize opField w = op at *
    decide +revert
  case h_15 hop =>
    split
    · exact ⟨rfl, formatFX_of_fields hop ‹_›⟩
    · exact ⟨rfl, formatFX_of_fields hop ‹_›⟩
    · simp_all [Instr.wellFormed, isUnmatched, encode]
  -- families 5 and 9, whose low nibble has to be 0
  case h_6 hop =>
    split_ifs with hn
    · simp_all [Instr.wellFormed, isUnmatched, encode]
    · exact ⟨rfl, formatFR_of_fields hop (by simpa using hn)⟩
  case h_10 hop =>
    split_ifs with hn
    · simp_all [Instr.wellFormed, isUnmatched, encode]
    · exact ⟨rfl, formatFR_of_fields hop (by simpa using hn)⟩
  -- the families whose other fields are all operands, by format
  all_goals rename_i hop
  case h_2 | h_3 | h_11 | h_12 => exact ⟨rfl, formatFA_of_opField hop⟩
  case h_14 => exact ⟨rfl, formatFR_of_fields hop rfl⟩
  case h_4 | h_5 | h_7 | h_8 | h_13 => exact ⟨rfl, formatFI_of_opField hop⟩

/-! ### Decoding as the inverse of encoding -/

/-- A word decodes to `i` exactly when `i` is well formed and the word is its encoding. -/
theorem decode_eq_iff {w : Word} {i : Instr} : decode w = i ↔ i.wellFormed = true ∧ w = encode i := by
  constructor
  · rintro rfl
    exact ⟨(encodeOfDecodeIsTheWord w).1, (encodeOfDecodeIsTheWord w).2.symm⟩
  · rintro ⟨hi, rfl⟩
    exact decodeOfEncodeIsTheInstruction i hi

theorem decode_eq_nop_iff {w : Word} : decode w = .nop w ↔ isUnmatched parameters w = true :=
  decode_eq_iff.trans (and_iff_left rfl)

theorem decode_eq_cls_iff (w : Word) : decode w = .cls ↔ w = 0x00E0 :=
  decode_eq_iff.trans (and_iff_right rfl)

theorem decode_eq_ret_iff (w : Word) : decode w = .ret ↔ w = 0x00EE :=
  decode_eq_iff.trans (and_iff_right rfl)

/-- A format as a number: its fields are the digits. -/
theorem formatFA_toNat (op : BitVec 4) (nnn : Addr) : (formatFA op nnn).toNat = op.toNat * 4096 + nnn.toNat := by
  have hop := opField_toNat (formatFA op nnn)
  have hnnn := nnnField_toNat (formatFA op nnn)
  rw [opField_formatFA] at hop
  rw [nnnField_formatFA] at hnnn
  omega

theorem formatFX_toNat (op : BitVec 4) (x : RegIdx) (sel : Byte) :
    (formatFX op x sel).toNat = op.toNat * 4096 + x.val * 256 + sel.toNat := by
  have hop := opField_toNat (formatFX op x sel)
  have hx := xField_val (formatFX op x sel)
  have hsel := kkField_toNat (formatFX op x sel)
  rw [opField_formatFX] at hop
  rw [xField_formatFX] at hx
  rw [kkField_formatFX] at hsel
  omega

/-- The catch-all row of family 0 (R76). -/
theorem decode_eq_sys_iff (w : Word) (nnn : Addr) : decode w = .sys nnn ↔
    w.toNat / 4096 = 0 ∧ w ≠ 0x00E0 ∧ w ≠ 0x00EE ∧ nnn.toNat = w.toNat % 4096 := by
  constructor
  · intro h
    have hw : w.toNat = nnn.toNat := by
      simpa [encode, formatFA_toNat] using congrArg BitVec.toNat (decode_eq_iff.mp h).2
    refine ⟨by omega, fun he => ?_, fun he => ?_, by omega⟩
    · rw [(decode_eq_cls_iff w).mpr he] at h
      cases h
    · rw [(decode_eq_ret_iff w).mpr he] at h
      cases h
  · rintro ⟨hop, hcls, hret, hnnn⟩
    have hw : w = formatFA 0x0 nnn := by
      rw [← BitVec.toNat_inj, formatFA_toNat]
      simp
      omega
    refine decode_eq_iff.mpr ⟨?_, hw⟩
    simp only [Instr.wellFormed, Bool.and_eq_true, bne_iff_ne]
    constructor <;> rintro rfl
    · exact hcls hw
    · exact hret hw

/-- Family E with one of its two selectors (R78). -/
theorem decode_eq_skp_iff (w : Word) (x : RegIdx) : decode w = .skp x ↔ w.toNat = 0xE09E + 256 * x.val := by
  refine decode_eq_iff.trans ((and_iff_right rfl).trans ?_)
  rw [← BitVec.toNat_inj, encode, formatFX_toNat]
  simp
  omega

theorem decode_eq_sknp_iff (w : Word) (x : RegIdx) : decode w = .sknp x ↔ w.toNat = 0xE0A1 + 256 * x.val := by
  refine decode_eq_iff.trans ((and_iff_right rfl).trans ?_)
  rw [← BitVec.toNat_inj, encode, formatFX_toNat]
  simp
  omega

/-- Settles O5: the no-op is well formed exactly for the words the fallback is left with. -/
theorem unmatchedWordsDecodeToNop : Obligations.UnmatchedWordsDecodeToNop := by
  unfold Obligations.UnmatchedWordsDecodeToNop
  intro w
  exact decode_eq_nop_iff.trans (isUnmatched_iff w)

/-- Settles O6: a word decodes to `i` exactly when it is the encoding of `i`, read as a number. -/
theorem familiesZeroAndEDecode : Obligations.FamiliesZeroAndEDecode := by
  unfold Obligations.FamiliesZeroAndEDecode
  refine ⟨decode_eq_cls_iff, decode_eq_ret_iff, decode_eq_sys_iff, 
    fun w x => ⟨decode_eq_skp_iff w x, decode_eq_sknp_iff w x⟩, fun w hop hskp hsknp => ?_⟩
  exact decode_eq_nop_iff.mpr ((isUnmatched_iff w).mpr (by simp [hop, hskp, hsknp]))

/-- Settles O1: eleven closed words, each decoded by evaluation. -/
theorem wordsOfTheSpecDecode : Obligations.WordsOfTheSpecDecode := by
  unfold Obligations.WordsOfTheSpecDecode
  decide

/-! ### The first matching row (R74, R75) -/

/-- Every instruction's word matches the instruction's own row. -/
theorem rowMatches_own_row {i : Instr} (hi : i.wellFormed = true) :
    rowMatches (encode i) (opcodeRows.getD i.row (0xFFFF, 0)) = true := by
  cases i with
  | cls => exact Laws.MatchesRow.cls hi
  | ret => exact Laws.MatchesRow.ret hi
  | sys nnn => exact Laws.MatchesRow.sys nnn hi
  | jp nnn => exact Laws.MatchesRow.jp nnn hi
  | call nnn => exact Laws.MatchesRow.call nnn hi
  | seImm x kk => exact Laws.MatchesRow.seImm x kk hi
  | sneImm x kk => exact Laws.MatchesRow.sneImm x kk hi
  | seReg x y => exact Laws.MatchesRow.seReg x y hi
  | ldImm x kk => exact Laws.MatchesRow.ldImm x kk hi
  | addImm x kk => exact Laws.MatchesRow.addImm x kk hi
  | ldReg x y => exact Laws.MatchesRow.ldReg x y hi
  | orReg x y => exact Laws.MatchesRow.orReg x y hi
  | andReg x y => exact Laws.MatchesRow.andReg x y hi
  | xorReg x y => exact Laws.MatchesRow.xorReg x y hi
  | addReg x y => exact Laws.MatchesRow.addReg x y hi
  | subReg x y => exact Laws.MatchesRow.subReg x y hi
  | shr x y => exact Laws.MatchesRow.shr x y hi
  | subnReg x y => exact Laws.MatchesRow.subnReg x y hi
  | shl x y => exact Laws.MatchesRow.shl x y hi
  | sneReg x y => exact Laws.MatchesRow.sneReg x y hi
  | ldI nnn => exact Laws.MatchesRow.ldI nnn hi
  | jpV0 nnn => exact Laws.MatchesRow.jpV0 nnn hi
  | rnd x kk => exact Laws.MatchesRow.rnd x kk hi
  | drw x y n => exact Laws.MatchesRow.drw x y n hi
  | skp x => exact Laws.MatchesRow.skp x hi
  | sknp x => exact Laws.MatchesRow.sknp x hi
  | ldVxDt x => exact Laws.MatchesRow.ldVxDt x hi
  | ldVxK x => exact Laws.MatchesRow.ldVxK x hi
  | ldDtVx x => exact Laws.MatchesRow.ldDtVx x hi
  | ldStVx x => exact Laws.MatchesRow.ldStVx x hi
  | addI x => exact Laws.MatchesRow.addI x hi
  | ldF x => exact Laws.MatchesRow.ldF x hi
  | ldB x => exact Laws.MatchesRow.ldB x hi
  | storeRegs x => exact Laws.MatchesRow.storeRegs x hi
  | loadRegs x => exact Laws.MatchesRow.loadRegs x hi
  | nop w => exact Laws.MatchesRow.nop w hi

/-- Two rows that match one word agree on the bits both fix. -/
theorem rows_agree_of_rowMatches {w : Word} {r q : Word × Word} (hr : rowMatches w r = true)
    (hq : rowMatches w q = true) : r.2 &&& q.1 = q.2 &&& r.1 := by
  rw [rowMatches, beq_iff_eq] at hr hq
  rw [← hr, ← hq, BitVec.and_assoc, BitVec.and_assoc, BitVec.and_comm r.1]

/-- Of the 35 rows, the only two pairs that agree on the bits both fix are those of `00E0` and `00EE` with the
catch-all. -/
theorem overlapping_rows : ∀ r < 35, ∀ q < r,
    (opcodeRows.getD r (0, 1)).2 &&& (opcodeRows.getD q (0, 1)).1 =
      (opcodeRows.getD q (0, 1)).2 &&& (opcodeRows.getD r (0, 1)).1 → r = 2 ∧ q ≤ 1 := by
  decide

/-- A word that matches a row has the row's fixed bits in its fields. -/
theorem fields_of_rowMatches {w : Word} {r : Word × Word} (h : rowMatches w r = true) :
    opField w &&& opField r.1 = opField r.2 ∧ nField w &&& nField r.1 = nField r.2 ∧
      kkField w &&& kkField r.1 = kkField r.2 := by
  rw [rowMatches, beq_iff_eq] at h
  rw [← h]
  refine ⟨?_, ?_, ?_⟩ <;> exact BitVec.extractLsb'_and.symm

theorem and_nibble_ones (n : BitVec 4) : n &&& 0xF#4 = n := BitVec.and_allOnes

theorem and_byte_ones (b : Byte) : b &&& 0xFF#8 = b := BitVec.and_allOnes

/-- The words of the fallback match no other row (R81): row by row, the fields the row fixes are not those of an
unmatched word. -/
theorem not_rowMatches_of_isUnmatched {w : Word} (h : isUnmatched parameters w = true) {r : Nat} (hr : r < 35) :
    rowMatches w (opcodeRows.getD r (0, 1)) ≠ true := by
  intro hm
  obtain ⟨hop, hn, hkk⟩ := fields_of_rowMatches hm
  clear hm
  unfold isUnmatched at h
  generalize opField w = op at *
  generalize nField w = n at *
  generalize kkField w = kk at *
  interval_cases r <;> simp_all [opcodeRows, opField, nField, kkField, and_nibble_ones, and_byte_ones]

theorem row_lt (i : Instr) : i.row < 36 := by
  cases i <;> simp [Instr.row]

/-- Only the fallback no-op stands in the last row. -/
theorem eq_nop_of_row {i : Instr} (h : i.row = 35) : ∃ w, i = .nop w := by
  cases i with
  | nop w => exact ⟨w, rfl⟩
  | _ => cases h

/-- The first row that matches is the one that matches while none before it does. -/
theorem firstRow_eq_iff {w : Word} {r : Nat} (hr : r < 36) : firstRow w = r ↔
    rowMatches w (opcodeRows.getD r (0, 1)) = true ∧ ∀ q < r, rowMatches w (opcodeRows.getD q (0, 1)) ≠ true := by
  rw [firstRow, List.findIdx_eq (h := hr)]
  refine and_congr ?_ (forall₂_congr fun q hq => ?_)
  · rw [List.getD_eq_getElem _ _ (by exact hr)]
  · rw [List.getD_eq_getElem _ _ (by exact hq.trans hr)]
    exact Bool.eq_false_iff

/-- The row of the decoded instruction matches the word. -/
theorem rowMatches_row_decode (w : Word) : rowMatches w (opcodeRows.getD (decode w).row (0, 1)) = true := by
  obtain ⟨hi, hw⟩ := encodeOfDecodeIsTheWord w
  have h := rowMatches_own_row hi
  rw [hw, List.getD_eq_getElem _ _ (row_lt _)] at h
  rwa [List.getD_eq_getElem _ _ (row_lt _)]

/-- The first two rows fix every bit: their words are `00E0` and `00EE`. -/
theorem row_decode_of_rowMatches_fixed {w : Word} {q : Nat} (hq : q ≤ 1)
    (h : rowMatches w (opcodeRows.getD q (0, 1)) = true) : (decode w).row = q := by
  have hall : w &&& 0xFFFF#16 = w := BitVec.and_allOnes
  interval_cases q
  · have hw : w = 0x00E0 := by simpa [rowMatches, opcodeRows, hall] using h
    rw [(decode_eq_cls_iff w).mpr hw, Instr.row]
  · have hw : w = 0x00EE := by simpa [rowMatches, opcodeRows, hall] using h
    rw [(decode_eq_ret_iff w).mpr hw, Instr.row]

/-- No row before that of the decoded instruction matches the word. -/
theorem no_row_before_decode {w : Word} : ∀ q < (decode w).row, rowMatches w (opcodeRows.getD q (0, 1)) ≠ true := by
  intro q hq hm
  rcases Nat.lt_succ_iff_lt_or_eq.mp (row_lt (decode w)) with hlt | hlast
  · obtain ⟨hrow, hq1⟩ := overlapping_rows _ hlt q hq (rows_agree_of_rowMatches (rowMatches_row_decode w) hm)
    have := row_decode_of_rowMatches_fixed hq1 hm
    omega
  · obtain ⟨v, hv⟩ := eq_nop_of_row hlast
    obtain ⟨hun, hw⟩ := decode_eq_iff.mp hv
    cases hw
    exact not_rowMatches_of_isUnmatched hun (by omega) hm

/-- Settles O4: the row of the decoded instruction matches, no earlier row does, and a later one that matches agrees
with it on the bits both fix, which happens in family 0 alone. -/
theorem decodeIsTheFirstMatchingRow : Obligations.DecodeIsTheFirstMatchingRow := by
  unfold Obligations.DecodeIsTheFirstMatchingRow
  intro w
  have hown := rowMatches_row_decode w
  have hfirst : firstRow w = (decode w).row :=
    (firstRow_eq_iff (row_lt _)).mpr ⟨hown, no_row_before_decode⟩
  rw [hfirst]
  refine ⟨rfl, fun r hr hm hne => ?_⟩
  have hlt : (decode w).row < r := by
    by_contra hle
    exact no_row_before_decode r (by omega) hm
  exact overlapping_rows r hr _ hlt (rows_agree_of_rowMatches hm hown)

end Sys2Proof.Machine

/-! PROOF. The frame of every instruction and that each completes (spec/40_step_cycle.md R107), after an equation for
the execute phase of each instruction and what each kind of write leaves alone. -/

namespace Sys2Proof.Machine

variable {s t : State}

/-! ### The execute phase of each instruction -/

/-- `CLS` (R170). -/
theorem exec_cls (s : State) : exec .cls s = .next (s.setDisp Display.blank) := rfl

/-- `RET` with a value on the stack (R122). -/
theorem exec_ret_of_stack {l : List Word} {a : Word} (h : s.stack = l ++ [a]) :
    exec .ret s = .next ((s.setStack l).setPc a) := by
  simp only [exec, execRet, State.pop_concat s h]

/-- `RET` on an empty stack (R202). -/
theorem exec_ret_of_empty (h : s.stack = []) : exec .ret s = .fault .stackUnderflow := by
  simp only [exec, execRet, State.pop_nil s h, raise]

/-- `JP nnn` (R123). -/
theorem exec_jp (nnn : Addr) (s : State) : exec (.jp nnn) s = .next (s.setPc (zextAddr nnn - 2)) := rfl

/-- `CALL nnn` under the default, unbounded depth (R124). -/
theorem exec_call (nnn : Addr) (s : State) :
    exec (.call nnn) s = .next ((s.setStack (s.stack ++ [s.pc])).setPc (zextAddr nnn - 2)) := rfl

/-- `JPV0 nnn` (R125). -/
theorem exec_jpV0 (nnn : Addr) (s : State) :
    exec (.jpV0 nnn) s = .next (s.setPc (zextAddr nnn + zextByte (s.reg 0) - 2)) := rfl

/-- `SKP Vx` (R134). -/
theorem exec_skp (x : RegIdx) (s : State) :
    exec (.skp x) s = .next (skipIf (pressed s.input.keys (s.reg x)) s) := rfl

/-- `SKNP Vx` (R135). -/
theorem exec_sknp (x : RegIdx) (s : State) :
    exec (.sknp x) s = .next (skipIf (!pressed s.input.keys (s.reg x)) s) := rfl

/-- `ADD Vx, kk` (R142). -/
theorem exec_addImm (x : RegIdx) (kk : Byte) (s : State) :
    exec (.addImm x kk) s = .next (s.setReg x (s.reg x + kk)) := rfl

/-- `OR Vx, Vy` (R144). -/
theorem exec_orReg (x y : RegIdx) (s : State) :
    exec (.orReg x y) s = .next (s.setReg x (s.reg x ||| s.reg y)) := rfl

/-- `AND Vx, Vy` (R145). -/
theorem exec_andReg (x y : RegIdx) (s : State) :
    exec (.andReg x y) s = .next (s.setReg x (s.reg x &&& s.reg y)) := rfl

/-- `XOR Vx, Vy` (R146). -/
theorem exec_xorReg (x y : RegIdx) (s : State) :
    exec (.xorReg x y) s = .next (s.setReg x (s.reg x ^^^ s.reg y)) := rfl

/-- `RND Vx, kk` (R152). -/
theorem exec_rnd (x : RegIdx) (kk : Byte) (s : State) :
    exec (.rnd x kk) s = .next (s.setReg x (s.input.rnd &&& kk)) := rfl

/-- `ADD Vx, Vy` (R147). -/
theorem exec_addReg (x y : RegIdx) (s : State) : exec (.addReg x y) s =
    .next (writeFlagged parameters x (carryFlag (s.reg x) (s.reg y)) (s.reg x + s.reg y) s) := rfl

/-- `SUB Vx, Vy` (R148). -/
theorem exec_subReg (x y : RegIdx) (s : State) : exec (.subReg x y) s =
    .next (writeFlagged parameters x (greaterFlag (s.reg x) (s.reg y)) (s.reg x - s.reg y) s) := rfl

/-- `SUBN Vx, Vy` (R150). -/
theorem exec_subnReg (x y : RegIdx) (s : State) : exec (.subnReg x y) s =
    .next (writeFlagged parameters x (greaterFlag (s.reg y) (s.reg x)) (s.reg y - s.reg x) s) := rfl

/-- `SHR Vx` (R149). -/
theorem exec_shr (x y : RegIdx) (s : State) : exec (.shr x y) s =
    .next (writeFlagged parameters x (shiftedOutFlag (s.reg x) 0) (s.reg x >>> 1) s) := rfl

/-- `SHL Vx` (R151). -/
theorem exec_shl (x y : RegIdx) (s : State) : exec (.shl x y) s =
    .next (writeFlagged parameters x (shiftedOutFlag (s.reg x) 7) (s.reg x <<< 1) s) := rfl

/-- `ADD I, Vx` (R161). -/
theorem exec_addI (x : RegIdx) (s : State) :
    exec (.addI x) s = .next (s.setIndex (s.index + zextByte (s.reg x))) := rfl

/-- `LD F, Vx` (R162). -/
theorem exec_ldF (x : RegIdx) (s : State) :
    exec (.ldF x) s = .next (s.setIndex (glyphAddress parameters (s.reg x))) := rfl

/-- What `DRW Vx, Vy, n` draws: the grid after it, and whether a set cell met a set bit (R171). -/
def drawnBy (x y : RegIdx) (n : BitVec 4) (s : State) : Display × Bool :=
  drawRows (s.reg x) (s.reg y) n.toNat (fun row => s.readByte (byteAddr s.index row)) (s.disp, false)

/-- `DRW Vx, Vy, n` (R171). -/
theorem exec_drw (x y : RegIdx) (n : BitVec 4) (s : State) : exec (.drw x y n) s =
    .next ((s.setDisp (drawnBy x y n s).1).setReg VF (flagByte (drawnBy x y n s).2)) :=
  drawIn_default s x y n

/-- Settles O20: `RET` completes on a stack with a last element, and no other instruction has a way to fail. -/
theorem everyInstructionCompletes : Obligations.EveryInstructionCompletes := by
  unfold Obligations.EveryInstructionCompletes
  intro i s hs
  cases i with
  | ret =>
    obtain ⟨l, a, hl⟩ := (List.eq_nil_or_concat' s.stack).resolve_left (hs rfl)
    exact ⟨_, exec_ret_of_stack hl⟩
  | _ => exact ⟨_, rfl⟩

/-! ### What each write leaves alone -/

/-- A write to the display changes nothing else. -/
theorem changesOnly_setDisp (d : Display) (s : State) : ChangesOnly { disp := true } s (s.setDisp d) := by
  constructor <;> simp

/-- A write to the stall latch changes nothing else. -/
theorem changesOnly_setWaiting (w : Option RegIdx) (s : State) :
    ChangesOnly { waiting := true } s (s.setWaiting w) := by
  constructor <;> simp

/-- A write to the stack and one to `PC` change nothing else. -/
theorem changesOnly_setStack_setPc (l : List Word) (a : Word) (s : State) :
    ChangesOnly { pc := true, stack := true } s ((s.setStack l).setPc a) := by
  constructor <;> simp

/-- A flagged result changes its register and `VF` alone. -/
theorem changesOnly_writeFlagged (x : RegIdx) (flag result : Byte) (s : State) :
    ChangesOnly { regs := [x, VF] } s (writeFlagged parameters x flag result s) := by
  rw [writeFlagged_default]
  constructor <;> simp +contextual [State.reg_setReg]

/-- A draw changes the display and `VF` alone. -/
theorem changesOnly_setDisp_setReg (d : Display) (x : RegIdx) (b : Byte) (s : State) :
    ChangesOnly { regs := [x], disp := true } s ((s.setDisp d).setReg x b) := by
  constructor <;> simp +contextual [State.reg_setReg]

/-- Settles O21: the execute phase of each instruction is one of the writes above, within its footprint. -/
theorem nothingChangesOutsideTheFootprint : Obligations.NothingChangesOutsideTheFootprint := by
  unfold Obligations.NothingChangesOutsideTheFootprint
  intro i s t h
  cases i with
  | ret =>
    obtain ⟨l, a, rfl⟩ := exec_ret_next h
    exact changesOnly_setStack_setPc l a s
  | cls => cases h; exact changesOnly_setDisp _ s
  | sys | nop => cases h; exact changesOnly_refl _ s
  | jp | jpV0 => cases h; exact changesOnly_setPc _ s
  | call => cases h; exact changesOnly_setStack_setPc _ _ s
  | seImm | sneImm | seReg | sneReg | skp | sknp => cases h; exact changesOnly_skipIf _ s
  | ldImm | addImm | ldReg | orReg | andReg | xorReg | rnd | ldVxDt => cases h; exact changesOnly_setReg s _ _
  | addReg | subReg | shr | subnReg | shl => cases h; exact changesOnly_writeFlagged _ _ _ s
  | ldI | addI | ldF => cases h; exact changesOnly_setIndex _ s
  | drw => cases h; exact changesOnly_setDisp_setReg _ _ _ s
  | ldVxK => cases h; exact changesOnly_setWaiting _ s
  | ldDtVx => cases h; exact changesOnly_setDt _ s
  | ldStVx => cases h; exact changesOnly_setSt _ s
  | ldB | storeRegs => cases h; exact changesOnly_writeBytes s _ _ _
  | loadRegs x => cases h; exact changesOnly_readIntoRegs s _ x.isLt

/-- A fault of the execute phase is `StackUnderflow` of a `RET` on an empty stack: every other instruction completes. -/
theorem exec_fault_cases {i : Instr} {f : Fault} (h : exec i s = .fault f) :
    i = .ret ∧ f = .stackUnderflow ∧ s.stack = [] := by
  by_cases hs : i = .ret → s.stack ≠ []
  · obtain ⟨t, ht⟩ := everyInstructionCompletes i s hs
    rw [ht] at h
    cases h
  · obtain ⟨rfl, hempty⟩ : i = .ret ∧ s.stack = [] := by simpa using hs
    rw [exec_ret_of_empty hempty] at h
    cases h
    exact ⟨rfl, rfl, hempty⟩

end Sys2Proof.Machine

/-! PROOF. The statements about single instructions: control flow (spec/41_control_flow.md), the key skips
(spec/42_skips.md), arithmetic and flags (spec/43_load_alu.md), index arithmetic (spec/44_index_memory.md), `CLS`
and the key wait. Each is the equation of the execute phase and the value it writes. -/

namespace Sys2Proof.Machine

variable {s t : State}

/-! ### Control flow (R122 to R126) -/

/-- The uniform advance completes a compensated target (R126). -/
theorem sub_two_add_two (a : Word) : a - 2 + 2 = a := sub_add_cancel a 2

@[simp] theorem zextByte_toNat (b : Byte) : (zextByte b).toNat = b.toNat :=
  BitVec.toNat_setWidth_of_le (by decide)

/-- The target of `JPV0` does not wrap: it is at most 4095 + 255. -/
theorem zextAddr_add_zextByte_toNat (nnn : Addr) (b : Byte) :
    (zextAddr nnn + zextByte b).toNat = nnn.toNat + b.toNat := by
  rw [BitVec.toNat_add, zextAddr_toNat, zextByte_toNat]
  omega

/-- Settles O23: the uniform advance undoes the compensation. -/
theorem jumpsAreCompensated : Obligations.JumpsAreCompensated := by
  unfold Obligations.JumpsAreCompensated
  intro nnn s
  refine ⟨⟨_, exec_jp nnn s, ?_, changesOnly_setPc _ s⟩,
    ⟨_, exec_call nnn s, ?_, rfl, changesOnly_setStack_setPc _ _ s⟩, ⟨_, exec_jpV0 nnn s, ?_, changesOnly_setPc _ s⟩⟩
  · rw [State.setPc_pc, sub_two_add_two, zextAddr_toNat]
  · rw [State.setPc_pc, sub_two_add_two, zextAddr_toNat]
  · rw [State.setPc_pc, sub_two_add_two, zextAddr_add_zextByte_toNat]

/-- Settles O25: `RET` writes the last element to `PC` and the rest to the stack. -/
theorem returnPopsIntoTheProgramCounter : Obligations.ReturnPopsIntoTheProgramCounter := by
  unfold Obligations.ReturnPopsIntoTheProgramCounter
  intro s l a hs
  exact ⟨_, exec_ret_of_stack hs, rfl, rfl, changesOnly_setStack_setPc l a s⟩

/-- The test for a full stack under a finite depth (R203). -/
theorem stackFull_iff {c : Config} {depth : Nat} (hc : c.stackDepth = some depth) :
    stackFull c s = true ↔ depth ≤ s.stack.length := by
  simp [stackFull, hc]

/-- Settles O29: the test for a full stack is the comparison with the depth, and `CALL` pushes when it fails. -/
theorem finiteStackOverflows : Obligations.FiniteStackOverflows := by
  unfold Obligations.FiniteStackOverflows
  intro c depth nnn s hc
  refine ⟨fun hfull => ?_, fun hroom => ?_⟩
  · rw [callIn, if_pos ((stackFull_iff hc).mpr hfull.ge), raise]
  · rw [callIn, if_neg fun h => Nat.not_le.mpr hroom ((stackFull_iff hc).mp h)]
    exact ⟨_, rfl, rfl⟩

/-! ### The key skips (R134, R135) -/

theorem pressed_of_le {keys : BitVec 16} {v : Byte} (h : v.toNat ≤ 15) :
    pressed keys v = keys.getLsbD v.toNat := by
  rw [pressed, decide_eq_true h, Bool.true_and]

theorem pressed_of_gt {keys : BitVec 16} {v : Byte} (h : 15 < v.toNat) : pressed keys v = false := by
  rw [pressed, decide_eq_false (Nat.not_le.mpr h), Bool.false_and]

/-- Settles O31: the two skips test `pressed` and its negation. -/
theorem keySkips : Obligations.KeySkips := by
  unfold Obligations.KeySkips
  intro x s
  refine ⟨_, _, exec_skp x s, exec_sknp x s, changesOnly_skipIf _ s, changesOnly_skipIf _ s, ?_, ?_, ?_⟩
  · intro hle hkey
    simp [pressed_of_le hle, hkey]
  · intro hle hkey
    simp [pressed_of_le hle, hkey]
  · intro hgt
    simp [pressed_of_gt hgt]

/-! ### Arithmetic, logic and the random byte (R142 to R152) -/

/-- Settles O33: each instruction is one register write, of a sum modulo 256 or of a bitwise result. -/
theorem addImmediateAndLogic : Obligations.AddImmediateAndLogic := by
  unfold Obligations.AddImmediateAndLogic
  intro x y kk s
  refine ⟨⟨_, exec_addImm x kk s, ?_, changesOnly_setReg s x _⟩, ⟨_, exec_orReg x y s, ?_, changesOnly_setReg s x _⟩,
    ⟨_, exec_andReg x y s, ?_, changesOnly_setReg s x _⟩, ⟨_, exec_xorReg x y s, ?_, changesOnly_setReg s x _⟩⟩
  · rw [State.reg_setReg_same, BitVec.toNat_add]
  · intro b
    rw [State.reg_setReg_same, BitVec.getLsbD_or, Bool.or_eq_true]
  · intro b
    rw [State.reg_setReg_same, BitVec.getLsbD_and, Bool.and_eq_true]
  · intro b
    rw [State.reg_setReg_same, BitVec.getLsbD_xor, bne_iff_ne]

/-- Settles O38: the bits of a bitwise AND are those of the random byte under the mask. -/
theorem randomByteIsMasked : Obligations.RandomByteIsMasked := by
  unfold Obligations.RandomByteIsMasked
  intro x kk s
  refine ⟨_, exec_rnd x kk s, fun b => ?_, changesOnly_setReg s x _⟩
  rw [State.reg_setReg_same, BitVec.getLsbD_and]
  cases kk.getLsbD b <;> simp

/-! ### Flags (R140, R147 to R151) -/

/-- The result of a flagged instruction stands in its register, even where that is `VF` (R140). -/
@[simp] theorem writeFlagged_reg_result (x : RegIdx) (flag result : Byte) (s : State) :
    (writeFlagged parameters x flag result s).reg x = result := by
  rw [writeFlagged_default, State.reg_setReg_same]

/-- The flag stands in `VF` when the result goes elsewhere. -/
theorem writeFlagged_reg_flag {x : RegIdx} (hx : x ≠ VF) (flag result : Byte) (s : State) :
    (writeFlagged parameters x flag result s).reg VF = flag := by
  rw [writeFlagged_default, State.reg_setReg_ne _ hx.symm, State.reg_setReg_same]

theorem flagByte_toNat (b : Bool) : (flagByte b).toNat = b.toNat := by
  cases b <;> rfl

theorem flagByte_decide (p : Prop) [Decidable p] : flagByte (decide p) = if p then 1 else 0 := by
  by_cases hp : p <;> simp [flagByte, hp]

/-- Settles O37: the later of the two writes to one register stands, and to two registers both do. -/
theorem flagWriteOrder : Obligations.FlagWriteOrder := by
  unfold Obligations.FlagWriteOrder
  intro c x flag result s
  refine ⟨fun hx => ?_, fun ho => ?_, fun ho => ?_⟩
  · cases ho : c.flagOrder <;> simp [writeFlagged, ho, State.reg_setReg, hx, hx.symm]
  · rw [writeFlagged, ho, State.reg_setReg_same]
  · rw [writeFlagged, ho, State.reg_setReg_same]

/-- An instruction that writes a flagged result leaves the result, the flag where there is room for it, and everything
else as it was. -/
theorem exec_writeFlagged_effect {i : Instr} {x : RegIdx} {flag result : Byte}
    (hi : exec i s = .next (writeFlagged parameters x flag result s)) {P Q : Byte → Prop} (hP : P result)
    (hQ : Q flag) :
    ∃ t, exec i s = .next t ∧ P (t.reg x) ∧ (x ≠ VF → Q (t.reg VF)) ∧ ChangesOnly { regs := [x, VF] } s t := by
  refine ⟨_, hi, ?_, fun hx => ?_, changesOnly_writeFlagged x flag result s⟩
  · rwa [writeFlagged_reg_result]
  · rwa [writeFlagged_reg_flag hx]

/-- Settles O34: the sum of bit vectors is the sum modulo 256, and the flag is its carry test. -/
theorem addReportsTheCarry : Obligations.AddReportsTheCarry := by
  unfold Obligations.AddReportsTheCarry
  intro x y s
  refine exec_writeFlagged_effect (exec_addReg x y s) (P := fun r => r.toNat = _) (Q := fun f => f = _) ?_ ?_
  · exact BitVec.toNat_add _ _
  · exact flagByte_decide _

theorem sub_toNat_mod (a b : Byte) : (a - b).toNat = (256 + a.toNat - b.toNat) % 256 := by
  rw [BitVec.toNat_sub]
  omega

/-- Settles O35: the difference of bit vectors is the one modulo 256, and the flag is the strict comparison. -/
theorem subtractionsReportStrictlyGreater : Obligations.SubtractionsReportStrictlyGreater := by
  unfold Obligations.SubtractionsReportStrictlyGreater
  intro x y s
  constructor
  · exact exec_writeFlagged_effect (exec_subReg x y s) (P := fun r => r.toNat = _) (Q := fun f => f = _)
      (sub_toNat_mod _ _) (flagByte_decide _)
  · exact exec_writeFlagged_effect (exec_subnReg x y s) (P := fun r => r.toNat = _) (Q := fun f => f = _)
      (sub_toNat_mod _ _) (flagByte_decide _)

theorem shiftedOutFlag_toNat (v : Byte) (k : Nat) : (shiftedOutFlag v k).toNat = v.toNat / 2 ^ k % 2 := by
  rw [shiftedOutFlag, flagByte_toNat, BitVec.getLsbD, Nat.toNat_testBit]

/-- Settles O36: the shifts are division and multiplication by 2, and the flag is bit 0 or bit 7 of the operand. -/
theorem shiftsReportTheBitShiftedOut : Obligations.ShiftsReportTheBitShiftedOut := by
  unfold Obligations.ShiftsReportTheBitShiftedOut
  intro x y s
  constructor
  · refine exec_writeFlagged_effect (exec_shr x y s) (P := fun r => r.toNat = _) (Q := fun f => f.toNat = _) ?_ ?_
    · simp [BitVec.toNat_ushiftRight, Nat.shiftRight_eq_div_pow]
    · simp [shiftedOutFlag_toNat]
  · refine exec_writeFlagged_effect (exec_shl x y s) (P := fun r => r.toNat = _) (Q := fun f => f.toNat = _) ?_ ?_
    · simp [BitVec.toNat_shiftLeft, Nat.shiftLeft_eq]
    · rw [shiftedOutFlag_toNat]
      omega

/-! ### The index register (R161, R162) and addresses (R51) -/

/-- Settles O40: both instructions are one write to `I`, of a sum of 16-bit values. -/
theorem indexArithmetic : Obligations.IndexArithmetic := by
  unfold Obligations.IndexArithmetic
  intro x s
  refine ⟨⟨_, exec_addI x s, ?_, changesOnly_setIndex _ s⟩, ⟨_, exec_ldF x s, ?_, changesOnly_setIndex _ s⟩⟩
  · rw [State.setIndex_index, BitVec.toNat_add, zextByte_toNat]
  · rw [State.setIndex_index, glyphAddress, BitVec.toNat_add, BitVec.toNat_mul, zextByte_toNat]
    simp

/-- Settles O44: an effective address is the low 12 bits, so both levels of wrap-around are one modulo 4096. -/
theorem addressesWrapAtTheTopOfMemory : Obligations.AddressesWrapAtTheTopOfMemory := by
  unfold Obligations.AddressesWrapAtTheTopOfMemory
  intro a k
  exact ⟨BitVec.toNat_setWidth 12 a, ea_byteAddr_toNat a k, by decide⟩

/-- Under the fault policy one address value above 4095 refuses the whole access (R51). -/
theorem accessAllowed_of_exceeds {c : Config} (hc : c.addrPolicy = .fault) {base : Word} {count : Nat}
    (h : ∃ k < count, 4095 < (byteAddr base k).toNat) : ¬ accessAllowed c base count = true := by
  obtain ⟨k, hk, hlt⟩ := h
  exact fun hall => Nat.not_le.mpr hlt ((accessAllowed_fault hc base count).mp hall k hk)

/-- Settles O46: every operation that reaches memory asks `accessAllowed` first. -/
theorem faultPolicyRaisesAddressFault : Obligations.FaultPolicyRaisesAddressFault := by
  unfold Obligations.FaultPolicyRaisesAddressFault
  intro c s hc
  refine ⟨fun h => ?_, fun h => ?_, fun count f x y n => ⟨fun h => ⟨?_, ?_⟩, fun h => ⟨?_, ?_⟩, fun h => ?_⟩⟩
  · rw [fetchIn, if_neg (accessAllowed_of_exceeds hc h)]
  · rw [fetchIn, if_pos ((accessAllowed_fault hc _ _).mpr h)]
  · rw [storeBlockIn, if_neg (accessAllowed_of_exceeds hc h), raise]
  · rw [loadBlockIn, if_neg (accessAllowed_of_exceeds hc h), raise]
  · rw [storeBlockIn_default, storeBlockIn, if_pos ((accessAllowed_fault hc _ _).mpr h)]
  · rw [loadBlockIn_default, loadBlockIn, if_pos ((accessAllowed_fault hc _ _).mpr h)]
  · rw [drawIn, if_neg (accessAllowed_of_exceeds hc h), raise]

/-! ### The key wait (R181) -/

/-- Settles O51: the instruction is one write to the latch. -/
theorem keyWaitSetsTheLatch : Obligations.KeyWaitSetsTheLatch := by
  unfold Obligations.KeyWaitSetsTheLatch
  intro x s
  exact ⟨_, exec_ldVxK x s, State.setWaiting_waiting s _, changesOnly_setWaiting _ s⟩

end Sys2Proof.Machine

/-! PROOF. The statements about `CLS` and `DRW` (spec/45_display.md R170 to R173), cell by cell. -/

namespace Sys2Proof.Machine

variable {s t : State}

/-! ### One draw (R171 to R173) -/

/-- A draw XORs the sprite into every cell. -/
theorem drawnBy_get (x y : RegIdx) (n : BitVec 4) (s : State) (cx : Column) (cy : Row) :
    Display.get (drawnBy x y n s).1 cx cy = (Display.get s.disp cx cy ^^ spriteCell s x y n cx cy) := by
  rw [← rowsCell_eq_spriteCell]
  exact (drawRows_spec _ _ _ (s.disp, false) n.toNat (by omega)).1 cx cy

/-- A draw collides when a set cell meets a set bit of the sprite. -/
theorem drawnBy_collides_iff (x y : RegIdx) (n : BitVec 4) (s : State) : (drawnBy x y n s).2 = true ↔
    ∃ cx cy, Display.get s.disp cx cy = true ∧ spriteCell s x y n cx cy = true := by
  simp only [← rowsCell_eq_spriteCell]
  exact ((drawRows_spec _ _ _ (s.disp, false) n.toNat (by omega)).2).trans (by simp)

theorem flagByte_eq_one_iff (b : Bool) : flagByte b = 1 ↔ b = true := by
  cases b <;> decide

theorem flagByte_eq_zero_iff (b : Bool) : flagByte b = 0 ↔ b = false := by
  cases b <;> decide

/-- Settles O48: the draw's grid and collision bit, cell by cell; `VF` is the collision bit as a byte. -/
theorem drawXorsTheSprite : Obligations.DrawXorsTheSprite := by
  unfold Obligations.DrawXorsTheSprite
  intro x y n s
  refine ⟨_, exec_drw x y n s, fun cx cy => ?_, ?_, ?_, changesOnly_setDisp_setReg _ VF _ s⟩
  · rw [State.setReg_disp, State.setDisp_disp, drawnBy_get]
  · rw [State.reg_setReg_same, flagByte_eq_one_iff, drawnBy_collides_iff]
  · rw [State.reg_setReg_same, flagByte_eq_zero_iff, ← Bool.not_eq_true, drawnBy_collides_iff]
    simp

/-! ### The same draw again (R171 (e)) -/

/-- The sprite depends on the position registers, `I` and memory alone. -/
theorem spriteCell_congr {x y : RegIdx} (hx : t.reg x = s.reg x) (hy : t.reg y = s.reg y) (hi : t.index = s.index)
    (hm : t.mem = s.mem) (n : BitVec 4) (cx : Column) (cy : Row) :
    spriteCell t x y n cx cy = spriteCell s x y n cx cy := by
  simp only [spriteCell, State.readByte, hx, hy, hi, hm]

/-- Settles O49: the second draw has the same sprite, XOR with it twice is the identity, and a cell the first draw set
is one where the sprite has a bit. -/
theorem drawingTwiceRestoresTheDisplay : Obligations.DrawingTwiceRestoresTheDisplay := by
  unfold Obligations.DrawingTwiceRestoresTheDisplay
  intro x y n s hx hy
  set t := (s.setDisp (drawnBy x y n s).1).setReg VF (flagByte (drawnBy x y n s).2)
  have hdisp (cx : Column) (cy : Row) :
      Display.get t.disp cx cy = (Display.get s.disp cx cy ^^ spriteCell s x y n cx cy) := drawnBy_get x y n s cx cy
  have hsprite : spriteCell t x y n = spriteCell s x y n := by
    funext cx cy
    exact spriteCell_congr (State.reg_setReg_ne _ hx _) (State.reg_setReg_ne _ hy _) rfl rfl n cx cy
  refine ⟨t, _, exec_drw x y n s, exec_drw x y n t, ?_, ?_⟩
  · rw [State.setReg_disp, State.setDisp_disp]
    refine Display.ext_get fun cx cy => ?_
    rw [drawnBy_get, hdisp, hsprite, Bool.xor_assoc, Bool.xor_self, Bool.xor_false]
  · rintro ⟨cx, cy, hoff, hon⟩
    rw [State.reg_setReg_same, flagByte_eq_one_iff, drawnBy_collides_iff, hsprite]
    refine ⟨cx, cy, hon, ?_⟩
    rwa [hdisp, hoff, Bool.false_xor] at hon

/-! ### `CLS` (R170) -/

/-- Settles O47: `CLS` writes the blank grid, and its step reports as the instruction says. -/
theorem clearBlanksTheDisplay : Obligations.ClearBlanksTheDisplay := by
  unfold Obligations.ClearBlanksTheDisplay
  refine ⟨decode_eq_cls_iff, fun s => ?_, fun s hr => ?_⟩
  · exact ⟨_, exec_cls s, Display.get_blank, changesOnly_setDisp _ s⟩
  · exact ⟨_, _, step_of_runs_of_exec hr (exec_cls _), endStep_snapshot _ _, rfl⟩

/-! ### The reported grid (R28, R34) -/

/-- Settles O16: 64 columns to a row, so quotient and remainder by 64 give the cell back. -/
theorem reportedGridIsInLinearOrder : Obligations.ReportedGridIsInLinearOrder := by
  unfold Obligations.ReportedGridIsInLinearOrder
  intro o cx cy
  have hk : (Fin.ofNat 2048 (64 * cy.val + cx.val)).val = 64 * cy.val + cx.val := by
    rw [Fin.val_ofNat]
    omega
  have hcol : Fin.ofNat 64 (64 * cy.val + cx.val) = cx := Fin.ext (by rw [Fin.val_ofNat]; omega)
  have hrow : Fin.ofNat 32 ((64 * cy.val + cx.val) / 64) = cy := Fin.ext (by rw [Fin.val_ofNat]; omega)
  rw [Snapshot.element, hk, hcol, hrow]

end Sys2Proof.Machine

/-! PROOF. The statements about memory and reset (spec/20_memory.md R52, R57, R61; spec/70_reset_and_hazards.md R240 to
R243), and the invariant: it holds after reset and every step keeps it. -/

namespace Sys2Proof.Machine

variable {s t : State}

/-! ### Memory -/

/-- Settles O45: the model's laws of a read after a write and of the canonical form, together. -/
theorem readAfterWrite : Obligations.ReadAfterWrite := by
  unfold Obligations.ReadAfterWrite
  intro m a a' b
  exact ⟨Memory.read_write_same m a b, fun hne => Memory.read_write_ne m hne b, fun hm => Memory.wf_write hm a b⟩

/-! ### Reset (R241, R243) -/

/-- The state a reset from a ROM that fits answers. -/
theorem construct_of_fits {rom : List Byte} (h : rom.length ≤ romMax) (tReset : Time) :
    construct rom tReset = .next { State.reset with mem := loadRom 0x200 rom [], lastTick := tReset } := by
  rw [construct, if_pos h]
  rfl

theorem construct_of_too_long {rom : List Byte} (h : romMax < rom.length) (tReset : Time) :
    construct rom tReset = .refused .romTooLong := by
  rw [construct, if_neg (Nat.not_le.mpr h)]

theorem State.reset_reg (j : RegIdx) : State.reset.reg j = 0 := by
  simp [State.reg, State.reset]

/-- Memory after a reset: the font in its 80 bytes, the ROM from 0x200 on, and 0 elsewhere. -/
theorem loadRom_reset_read (rom : List Byte) (a : Addr) :
    Memory.read (loadRom 0x200 rom []) a =
      if a.toNat < 80 then parameters.font.getD a.toNat 0
      else if 0x200 ≤ a.toNat then rom.getD (a.toNat - 0x200) 0 else 0 := by
  have hzero : ¬ a.toNat < 80 → parameters.font.getD a.toNat 0 = 0 := fun hge =>
    List.getD_eq_default _ _ (by rw [font_length]; omega)
  rw [Memory.read, loadRom_read, Memory.readAt, Memory.background_default]
  split_ifs with hrom hfont hrom' hfont'
  · omega
  · rfl
  · omega
  · rfl
  · rw [hzero hfont', List.getD_eq_default _ _ (by omega)]
  · exact hzero hfont'

/-- Settles O53: every field but memory and the stamp is that of `State.reset`, and memory is the loaded ROM over the
font. -/
theorem resetLoadsTheRom : Obligations.ResetLoadsTheRom := by
  unfold Obligations.ResetLoadsTheRom
  refine ⟨fun rom tReset hfit => ?_, fun rom tReset hlong => construct_of_too_long hlong tReset, rfl⟩
  exact ⟨_, construct_of_fits hfit tReset, State.reset_reg, rfl, rfl, rfl, rfl, rfl, Display.get_blank, rfl, rfl, rfl,
    loadRom_reset_read rom⟩

/-! ### The invariant after reset -/

theorem snapshotFits_of_none (h : s.snapshot = none) : SnapshotFits s := by
  intro o ho
  rw [h] at ho
  cases ho

/-- Settles O54: a reset lists no memory but the ROM, which is loaded by writes, and reports nothing. -/
theorem resetMeetsTheInvariant : Obligations.ResetMeetsTheInvariant := by
  unfold Obligations.ResetMeetsTheInvariant
  refine ⟨⟨Memory.wf_nil, rfl, snapshotFits_of_none rfl⟩, fun rom tReset s h => ?_⟩
  by_cases hfit : rom.length ≤ romMax
  · rw [construct_of_fits hfit] at h
    cases h
    exact ⟨loadRom_wf rom _ _ Memory.wf_nil (by rw [romMax] at hfit; omega), rfl, snapshotFits_of_none rfl⟩
  · rw [construct_of_too_long (Nat.not_le.mp hfit)] at h
    cases h

/-! ### The invariant over a step -/

@[simp] theorem skipIf_mem (c : Bool) (s : State) : (skipIf c s).mem = s.mem := by
  cases c <;> rfl

/-- The execute phase keeps the canonical form: only the two block stores write memory. -/
theorem exec_keeps_wf {i : Instr} (h : exec i s = .next t) (hs : s.mem.wf) : t.mem.wf := by
  cases i with
  | ret =>
    obtain ⟨l, a, rfl⟩ := exec_ret_next h
    exact hs
  | ldB | storeRegs =>
    cases h
    exact writeBytes_wf hs _ _ _
  | seImm | sneImm | seReg | sneReg | skp | sknp =>
    cases h
    rwa [skipIf_mem]
  | loadRegs x =>
    obtain ⟨v, hv⟩ := readIntoRegs_keeps s s.index (x.val + 1)
    rw [exec_loadRegs, hv] at h
    cases h
    exact hs
  | _ =>
    cases h
    exact hs

@[simp] theorem deliverKey_fault (s : State) : (deliverKey s).fault = s.fault := by
  obtain ⟨v, w, h⟩ := deliverKey_keeps s
  rw [h]

@[simp] theorem beforeFetch_fault (s : State) : (beforeFetch s).fault = s.fault := deliverKey_fault s

/-- The report of an unstalled step fits the state: it says nothing of a wait. -/
theorem snapshotFits_endStep (c : Bool) (u : State) : SnapshotFits (endStep c u) := by
  intro o ho
  cases ho
  exact ⟨rfl, bne_iff_ne, fun h => nomatch h⟩

/-- The report of a stalled step fits the state of a machine that waits. -/
theorem snapshotFits_endStalled (h : s.waiting.isSome = true) : SnapshotFits (endStalled s) := by
  intro o ho
  cases ho
  exact ⟨rfl, bne_iff_ne, fun _ => ⟨h, rfl⟩⟩

/-- Settles O55: memory by `exec_keeps_wf`, the latch by the frame of the instruction, the outputs because each kind of
step reports last. -/
theorem everyStepKeepsTheInvariant : Obligations.EveryStepKeepsTheInvariant := by
  unfold Obligations.EveryStepKeepsTheInvariant
  intro s t hs h
  obtain ⟨hfault, ⟨r, hr, rfl⟩ | ⟨-, u, hu, rfl⟩⟩ := step_next_cases h
  · have hmem : (deliverKey s).mem.wf := (deliverKey_mem s).symm ▸ hs.mem
    have hlatch : (deliverKey s).fault = none := (deliverKey_fault s).trans hfault
    exact ⟨hmem, hlatch, snapshotFits_endStalled (by rw [hr, Option.isSome_some])⟩
  · have hmem : u.mem.wf := exec_keeps_wf hu ((beforeFetch_mem s).symm ▸ hs.mem)
    have hlatch : u.fault = none := by
      rw [(nothingChangesOutsideTheFootprint _ _ _ hu).fault, beforeFetch_fault, hfault]
    exact ⟨hmem, hlatch, snapshotFits_endStep _ u⟩

end Sys2Proof.Machine

/-! PROOF. The statements about whole steps (spec/40_step_cycle.md): what the step runs and reports, the timer gate and
its stamp, the wait for a key, jumps and calls over a step, and the fault state (spec/60_exceptions.md R204). -/

namespace Sys2Proof.Machine

variable {s t : State}

/-! ### What the phases before the fetch leave alone -/

@[simp] theorem deliverKey_stack (s : State) : (deliverKey s).stack = s.stack := by
  obtain ⟨v, w, h⟩ := deliverKey_keeps s
  rw [h]

@[simp] theorem deliverKey_disp (s : State) : (deliverKey s).disp = s.disp := by
  obtain ⟨v, w, h⟩ := deliverKey_keeps s
  rw [h]

@[simp] theorem deliverKey_index (s : State) : (deliverKey s).index = s.index := by
  obtain ⟨v, w, h⟩ := deliverKey_keeps s
  rw [h]

@[simp] theorem beforeFetch_stack (s : State) : (beforeFetch s).stack = s.stack := deliverKey_stack s

@[simp] theorem beforeFetch_disp (s : State) : (beforeFetch s).disp = s.disp := deliverKey_disp s

@[simp] theorem beforeFetch_index (s : State) : (beforeFetch s).index = s.index := deliverKey_index s

@[simp] theorem beforeFetch_waiting (s : State) : (beforeFetch s).waiting = (deliverKey s).waiting := rfl

/-- Key delivery and the timer gate touch different items, so the gate may as well come first: the timers and the stamp
before the fetch are those the gate alone leaves. -/
theorem beforeFetch_timers (s : State) : (beforeFetch s).dt = (timerGate s).dt ∧
    (beforeFetch s).st = (timerGate s).st ∧ (beforeFetch s).lastTick = (timerGate s).lastTick := by
  obtain ⟨v, w, h⟩ := deliverKey_keeps s
  rw [beforeFetch, h]
  exact ⟨rfl, rfl, rfl⟩

theorem beforeFetch_dt (s : State) : (beforeFetch s).dt = (timerGate s).dt := (beforeFetch_timers s).1

theorem beforeFetch_st (s : State) : (beforeFetch s).st = (timerGate s).st := (beforeFetch_timers s).2.1

theorem beforeFetch_lastTick (s : State) : (beforeFetch s).lastTick = (timerGate s).lastTick :=
  (beforeFetch_timers s).2.2

/-! ### How a step ends -/

@[simp] theorem endStep_stack (c : Bool) (s : State) : (endStep c s).stack = s.stack := rfl

@[simp] theorem endStep_dt (c : Bool) (s : State) : (endStep c s).dt = s.dt := rfl

@[simp] theorem endStep_reg (c : Bool) (s : State) (j : RegIdx) : (endStep c s).reg j = s.reg j := rfl

@[simp] theorem endStep_lastTick (c : Bool) (s : State) : (endStep c s).lastTick = s.lastTick := rfl

/-- A step that runs `i` and answers a next state: `i` completed, and the step ended with the advance and the report. -/
theorem step_next_of_runs {i : Instr} (hr : Runs s i) (h : step s = .next t) :
    ∃ u, exec i (beforeFetch s) = .next u ∧ t = endStep (changesDisplay i) u := by
  obtain ⟨-, hw, rfl⟩ := hr
  obtain ⟨-, ⟨r, hs, -⟩ | ⟨-, hu⟩⟩ := step_next_cases h
  · rw [hw] at hs
    cases hs
  · exact hu

/-- A machine whose latch is clear after key delivery is not stalled. -/
theorem not_stalled_of_running (hw : (deliverKey s).waiting = none) : ¬ Stalled s := by
  intro hs
  rw [deliverKey_of_stalled hs] at hw
  obtain ⟨-, hsome, -⟩ := hs
  rw [hw] at hsome
  cases hsome

/-! ### The step runs the instruction at `PC` (R105 to R109) -/

/-- The two bytes of a word, high byte first, make the word (R53). -/
theorem bytes_append (w : Word) : (w.extractLsb' 8 8 : Byte) ++ (w.extractLsb' 0 8 : Byte) = w := by
  rw [BitVec.extractLsb'_append_extractLsb'_eq_extractLsb' (by rfl)]
  exact BitVec.extractLsb'_eq_self

/-- Settles O7: with the two bytes of `encode i` at `PC` the fetch gives `encode i`, which decodes to `i`. -/
theorem stepRunsTheDecodedInstruction : Obligations.StepRunsTheDecodedInstruction := by
  unfold Obligations.StepRunsTheDecodedInstruction
  intro s i hf hw hi hhigh hlow
  have hfetch : fetchWord s = encode i := by
    rw [fetchWord, byteAddr_one, hhigh, hlow, bytes_append]
  have hruns : Runs s i := ⟨hf, hw, by rw [fetchWord_beforeFetch, hfetch, decodeOfEncodeIsTheInstruction i hi]⟩
  exact (step_of_runs hruns).trans rfl

/-- The two addresses of a fetch are distinct. -/
theorem ea_byteAddr_one_ne (a : Word) : ea (byteAddr a 1) ≠ ea a := by
  intro h
  exact absurd (ea_byteAddr_inj a (j := 1) (k := 0) (by decide) (by decide) (by rwa [byteAddr_zero])) (by decide)

/-- The two bytes that `withFetchWord` stores are those of the word. -/
theorem highByte_ofNat (w : Nat) :
    BitVec.ofNat 8 (w % 2 ^ 16 / 256) = (BitVec.ofNat 16 w).extractLsb' 8 8 := by
  apply BitVec.eq_of_toNat_eq
  simp [Nat.shiftRight_eq_div_pow]

theorem lowByte_ofNat (w : Nat) : BitVec.ofNat 8 (w % 2 ^ 16) = (BitVec.ofNat 16 w).extractLsb' 0 8 := by
  apply BitVec.eq_of_toNat_eq
  simp

/-- The word a host places is the word the fetch reads. -/
theorem fetchWord_withFetchWord (s : State) (w : Nat) :
    fetchWord (s.withFetchWord 16 w) = BitVec.ofNat 16 w := by
  have hlow : (s.withFetchWord 16 w).readByte (byteAddr s.pc 1) = BitVec.ofNat 8 (w % 2 ^ 16) :=
    Memory.read_write_same _ _ _
  have hhigh : (s.withFetchWord 16 w).readByte s.pc = BitVec.ofNat 8 (w % 2 ^ 16 / 256) :=
    (Memory.read_write_ne _ (ea_byteAddr_one_ne s.pc) _).trans (Memory.read_write_same _ _ _)
  have hpc : (s.withFetchWord 16 w).pc = s.pc := rfl
  rw [fetchWord, hpc, hlow, hhigh, highByte_ofNat, lowByte_ofNat, bytes_append]

/-- Settles O8: the latches are cleared, the fetch reads the two bytes stored, and two writes change two bytes. -/
theorem placedWordIsTheNextInstruction : Obligations.PlacedWordIsTheNextInstruction := by
  unfold Obligations.PlacedWordIsTheNextInstruction
  intro s w _
  refine ⟨⟨rfl, ?_, ?_⟩, fun a hhigh hlow => ?_⟩
  · rw [deliverKey_running _ rfl]
    rfl
  · rw [fetchWord_beforeFetch, fetchWord_withFetchWord]
  · exact (Memory.read_write_ne _ hlow.symm _).trans (Memory.read_write_ne _ hhigh.symm _)

/-! ### The outputs (R103, R109 to R112) -/

/-- Settles O10: a stalled step is the report of a state that waits, and the next step's inputs. -/
theorem stalledStepChangesNothing : Obligations.StalledStepChangesNothing := by
  unfold Obligations.StalledStepChangesNothing
  intro s hs
  exact ⟨endStalled s, snapshotOf false true s, step_of_stalled hs, rfl, rfl, rfl, bne_iff_ne, rfl, rfl⟩

/-- Which instructions report a display change (R110). -/
theorem changesDisplay_iff (i : Instr) : changesDisplay i = true ↔ i = .cls ∨ ∃ x y n, i = .drw x y n := by
  cases i <;> simp [changesDisplay]

/-- Settles O15: an executed instruction ends its step with `endStep`, whose report is read off the state it leaves. -/
theorem reportOfAnExecutedInstruction : Obligations.ReportOfAnExecutedInstruction := by
  unfold Obligations.ReportOfAnExecutedInstruction
  intro s t i hr h
  obtain ⟨u, -, rfl⟩ := step_next_of_runs hr h
  exact ⟨_, endStep_snapshot _ u, rfl, changesDisplay_iff i, rfl⟩

/-! ### The timer gate and its stamp (R104, R212) -/

/-- A tick is due at one default period or more (R104). -/
theorem tickDue_iff (s : State) : tickDue parameters s = true ↔ (50 / 3 : Rat) ≤ s.input.now - s.lastTick :=
  decide_eq_true_iff

/-- Settles O12: the gate with a tick due, and the gate without one. -/
theorem timerGateOpensAfterOnePeriod : Obligations.TimerGateOpensAfterOnePeriod := by
  unfold Obligations.TimerGateOpensAfterOnePeriod
  intro s
  refine ⟨tickDue_iff s, fun hdue => ?_, fun hless => ?_, rfl⟩
  · rw [timerGate_of_tickDue ((tickDue_iff s).mpr hdue)]
  · refine timerGate_of_not_tickDue (Bool.eq_false_iff.mpr fun hdue => ?_)
    exact absurd ((tickDue_iff s).mp hdue) (not_le.mpr hless)

/-- The stamp after the gate: where it was, or at `now` and at least one period on. -/
theorem timerGate_lastTick_cases (s : State) : (timerGate s).lastTick = s.lastTick ∨
    (timerGate s).lastTick = s.input.now ∧ (50 / 3 : Rat) ≤ s.input.now - s.lastTick := by
  cases hdue : tickDue parameters s with
  | false => exact .inl (by rw [timerGate_of_not_tickDue hdue])
  | true => exact .inr ⟨by rw [timerGate_of_tickDue hdue], (tickDue_iff s).mp hdue⟩

@[simp] theorem deliverKey_lastTick (s : State) : (deliverKey s).lastTick = s.lastTick := by
  obtain ⟨v, w, h⟩ := deliverKey_keeps s
  rw [h]

/-- Settles O13: only the timer gate writes the stamp, and a stalled step does not reach it. -/
theorem tickStampMovesByAtLeastOnePeriod : Obligations.TickStampMovesByAtLeastOnePeriod := by
  unfold Obligations.TickStampMovesByAtLeastOnePeriod
  intro s t h
  obtain ⟨-, ⟨r, -, rfl⟩ | ⟨hw, u, hu, rfl⟩⟩ := step_next_cases h
  · exact .inl (deliverKey_lastTick s)
  · rw [endStep_lastTick, (nothingChangesOutsideTheFootprint _ _ _ hu).lastTick, beforeFetch_lastTick]
    rcases timerGate_lastTick_cases s with hstays | ⟨hmoves, hperiod⟩
    · exact .inl hstays
    · exact .inr ⟨not_stalled_of_running hw, hmoves, by rwa [hmoves]⟩

/-- Settles O52: the instruction sees the timers as the gate leaves them, and nothing after it counts them down. -/
theorem tickComesBeforeTheInstruction : Obligations.TickComesBeforeTheInstruction := by
  unfold Obligations.TickComesBeforeTheInstruction
  intro s x
  refine ⟨fun hr => ?_, fun hr => ?_, fun hr => ?_⟩
  · refine ⟨_, step_of_runs_of_exec hr (exec_ldVxDt x _), ?_, ?_⟩
    · rw [endStep_reg, State.reg_setReg_same, beforeFetch_dt]
    · rw [endStep_dt, State.setReg_dt, beforeFetch_dt]
  · refine ⟨_, step_of_runs_of_exec hr (exec_ldDtVx x _), ?_, ?_⟩
    · rw [endStep_dt, State.setDt_dt, beforeFetch_reg]
    · rw [endStep_st, State.setDt_st, beforeFetch_st]
  · refine ⟨_, step_of_runs_of_exec hr (exec_ldStVx x _), ?_, ?_⟩
    · rw [endStep_st, State.setSt_st, beforeFetch_reg]
    · rw [endStep_dt, State.setSt_dt, beforeFetch_dt]

/-! ### The wait for a key (R115) -/

/-- Only `LD Vx, K` has the stall latch in its footprint. -/
theorem footprint_waiting {i : Instr} (hi : ∀ x, i ≠ .ldVxK x) (s : State) : (footprint i s).waiting = false := by
  cases i with
  | ldVxK x => exact absurd rfl (hi x)
  | _ => rfl

/-- Settles O17: the frame of every other instruction leaves the latch as the fetch found it, which is clear. -/
theorem waitForAKeyIsATwoStateMachine : Obligations.WaitForAKeyIsATwoStateMachine := by
  unfold Obligations.WaitForAKeyIsATwoStateMachine
  refine ⟨fun s t hs h => ?_, fun s t x hr h => ?_, fun s t i hr hi h => ?_, fun s hf => ?_⟩
  · rw [step_of_stalled hs] at h
    cases h
    rfl
  · obtain ⟨u, hu, rfl⟩ := step_next_of_runs hr h
    rw [exec_ldVxK] at hu
    cases hu
    rfl
  · obtain ⟨u, hu, rfl⟩ := step_next_of_runs hr h
    obtain ⟨-, hw, -⟩ := hr
    rw [endStep_waiting, (nothingChangesOutsideTheFootprint _ _ _ hu).waiting (footprint_waiting hi _),
      beforeFetch_waiting, hw]
  · rcases stalled_or_running s hf with hs | ⟨-, hw⟩
    · exact .inl hs
    · exact .inr ⟨_, hf, hw, rfl⟩

/-! ### Jumps, calls and returns over a step (R122 to R126) -/

/-- Settles O24: the step is the compensated jump and the advance that completes it. -/
theorem jumpStepsLandOnTheTarget : Obligations.JumpStepsLandOnTheTarget := by
  unfold Obligations.JumpStepsLandOnTheTarget
  intro s nnn
  refine ⟨fun hr => ?_, fun hr => ?_, fun hr => ?_⟩
  · refine ⟨_, step_of_runs_of_exec hr (exec_jp nnn _), ?_, beforeFetch_stack s⟩
    rw [endStep_pc, State.setPc_pc, sub_two_add_two, zextAddr_toNat]
  · refine ⟨_, step_of_runs_of_exec hr (exec_call nnn _), ?_, ?_⟩
    · rw [endStep_pc, State.setPc_pc, sub_two_add_two, zextAddr_toNat]
    · rw [endStep_stack, State.setPc_stack, State.setStack_stack, beforeFetch_stack, beforeFetch_pc]
  · refine ⟨_, step_of_runs_of_exec hr (exec_jpV0 nnn _), ?_, beforeFetch_stack s⟩
    rw [endStep_pc, State.setPc_pc, sub_two_add_two, zextAddr_add_zextByte_toNat, beforeFetch_reg]

/-- Settles O26: the `CALL` leaves its own address on top of the stack, and `RET` pops it before the advance. -/
theorem callThenReturnComesBack : Obligations.CallThenReturnComesBack := by
  unfold Obligations.CallThenReturnComesBack
  intro s nnn hcall
  obtain ⟨t, hstep, -, hstack⟩ := (jumpStepsLandOnTheTarget s nnn).2.1 hcall
  refine ⟨t, hstep, fun hret => ?_⟩
  have hpop := exec_ret_of_stack ((beforeFetch_stack t).trans hstack)
  exact ⟨_, step_of_runs_of_exec hret hpop, rfl, rfl⟩

/-! ### Faults (R202, R204) -/

/-- Settles O27: key delivery and the timer gate leave the empty stack empty. -/
theorem returnOnAnEmptyStackFaults : Obligations.ReturnOnAnEmptyStackFaults := by
  unfold Obligations.ReturnOnAnEmptyStackFaults
  intro s hs
  refine ⟨exec_ret_of_empty hs, fun hr => ?_⟩
  rw [step_of_runs hr, exec_ret_of_empty ((beforeFetch_stack s).trans hs)]

theorem faultState_of_step_fault {f : Fault} (hf : s.fault = none) (h : step s = .fault f) :
    faultState s = some (latchFault f (beforeFetch s)) := by
  simp [faultState, h, hf]

/-- A machine whose latch holds a fault answers it again (R204). -/
theorem step_of_latched {f : Fault} (hf : s.fault = some f) : step s = .fault f := by
  simp [step, hf]

/-- Settles O28: the one fault of the execute phase is that of `RET`, and the fault state is the state before the fetch
with the latch set and no outputs. -/
theorem faultStateIsPreciseAndFinal : Obligations.FaultStateIsPreciseAndFinal := by
  unfold Obligations.FaultStateIsPreciseAndFinal
  intro s f hf h
  obtain hlatched | ⟨-, hw, hexec⟩ := step_fault_cases h
  · rw [hf] at hlatched
    cases hlatched
  obtain ⟨hret, hfault, hempty⟩ := exec_fault_cases hexec
  rw [beforeFetch_stack] at hempty
  refine ⟨hfault, ⟨hf, hw, hret⟩, hempty, _, faultState_of_step_fault hf h, rfl, rfl, step_of_latched rfl, ?_⟩
  exact ⟨beforeFetch_pc s, (beforeFetch_stack s).trans hempty, beforeFetch_mem s, beforeFetch_disp s,
    beforeFetch_index s, hw, beforeFetch_reg s, beforeFetch_dt s, beforeFetch_st s, beforeFetch_lastTick s⟩

end Sys2Proof.Machine

/-! PROOF. The statement about inputs that a step does not use (spec/10_state.md R33; spec/40_step_cycle.md R102, R103):
replacing the listed inputs commutes with every phase that reads none of the replaced values, and the end of the step
drops them. -/

namespace Sys2Proof.Machine

variable {s t : State} {a b : StepInput} {l : List StepInput}

/-- The state with another list of inputs. -/
def withInputs (l : List StepInput) (s : State) : State := { s with inputs := l }

/-- What is done to the state in which an instruction completes. -/
def mapNext (f : State → State) : Result → Result
  | .next t => .next (f t)
  | .fault r => .fault r
  | .refused r => .refused r

/-- The inputs that the instruction reads in its execute phase are the same in `a` and `b`: the random byte of `RND`
(R152), the keys of the two key skips (R134, R135), none for any other. -/
def SameUse (i : Instr) (a b : StepInput) : Prop :=
  match i with
  | .rnd _ _ => a.rnd = b.rnd
  | .skp _ | .sknp _ => a.keys = b.keys
  | _ => True

/-! ### The phases before the fetch -/

/-- Key delivery reads the key event of a machine that waits, and nothing else of the inputs. -/
theorem deliverKey_withInputs (h : s.waiting = none ∨ (withInputs l s).input.keyEvent = s.input.keyEvent) :
    deliverKey (withInputs l s) = withInputs l (deliverKey s) := by
  cases hw : s.waiting with
  | none => rw [deliverKey_running s hw, deliverKey_running (withInputs l s) hw]
  | some r =>
    have hsame : (withInputs l s).input.keyEvent = s.input.keyEvent := h.resolve_left (by simp [hw])
    cases hk : s.input.keyEvent with
    | none => rw [deliverKey_idle (.inr hk), deliverKey_idle (.inr (hsame.trans hk))]
    | some k =>
      rw [deliverKey_of_keyEvent hw hk, deliverKey_of_keyEvent (s := withInputs l s) hw (hsame.trans hk)]
      rfl

/-- The timer gate reads `now` alone. -/
theorem timerGate_withInputs (h : (withInputs l s).input.now = s.input.now) :
    timerGate (withInputs l s) = withInputs l (timerGate s) := by
  have hdue : tickDue parameters (withInputs l s) = tickDue parameters s := by
    rw [tickDue, h]
    rfl
  cases hs : tickDue parameters s with
  | false => rw [timerGate_of_not_tickDue hs, timerGate_of_not_tickDue (hdue.trans hs)]
  | true =>
    rw [timerGate_of_tickDue hs, timerGate_of_tickDue (hdue.trans hs), h]
    rfl

@[simp] theorem deliverKey_input (s : State) : (deliverKey s).input = s.input := by
  rw [State.input, deliverKey_inputs, deliverKey_stepNo, State.input]

@[simp] theorem beforeFetch_input (s : State) : (beforeFetch s).input = s.input := deliverKey_input s

/-- The phases before the fetch read the key event of a machine that waits, and `now`. -/
theorem beforeFetch_withInputs (hkey : s.waiting = none ∨ (withInputs l s).input.keyEvent = s.input.keyEvent)
    (hnow : (withInputs l s).input.now = s.input.now) :
    beforeFetch (withInputs l s) = withInputs l (beforeFetch s) := by
  rw [beforeFetch, deliverKey_withInputs hkey, timerGate_withInputs]
  · rfl
  · rw [← deliverKey_withInputs hkey, deliverKey_input, deliverKey_input, hnow]

/-! ### The execute phase -/

theorem skipIf_withInputs (c : Bool) (s : State) : skipIf c (withInputs l s) = withInputs l (skipIf c s) := by
  cases c <;> rfl

theorem readIntoRegs_withInputs (base : Word) (count : Nat) (s : State) :
    readIntoRegs base count (withInputs l s) = withInputs l (readIntoRegs base count s) := by
  unfold readIntoRegs
  induction count with
  | zero => rfl
  | succ n ih =>
    rw [forUpTo_succ, forUpTo_succ, ih]
    rfl

/-- The execute phase commutes with replacing inputs it does not read. -/
theorem exec_withInputs {i : Instr} (h : SameUse i s.input (withInputs l s).input) :
    exec i (withInputs l s) = mapNext (withInputs l) (exec i s) := by
  cases i with
  | ret =>
    rcases List.eq_nil_or_concat' s.stack with hs | ⟨r, a, hs⟩
    · rw [exec_ret_of_empty hs, exec_ret_of_empty (s := withInputs l s) hs]
      rfl
    · rw [exec_ret_of_stack hs, exec_ret_of_stack (s := withInputs l s) hs]
      rfl
  | seImm | sneImm | seReg | sneReg => exact congrArg _ (skipIf_withInputs _ s)
  | skp x =>
    have hkeys : s.input.keys = (withInputs l s).input.keys := h
    rw [exec_skp, exec_skp, skipIf_withInputs, ← hkeys]
    rfl
  | sknp x =>
    have hkeys : s.input.keys = (withInputs l s).input.keys := h
    rw [exec_sknp, exec_sknp, skipIf_withInputs, ← hkeys]
    rfl
  | rnd x kk =>
    have hrnd : s.input.rnd = (withInputs l s).input.rnd := h
    rw [exec_rnd, exec_rnd, ← hrnd]
    rfl
  | loadRegs x => exact congrArg _ (readIntoRegs_withInputs s.index _ s)
  | _ => rfl

/-! ### The end of a step, and the whole step -/

/-- The end of a step drops the first listed input, whatever it is. -/
theorem nextInput_report_withInputs (c w : Bool) (ht : t.inputs.tail = l) :
    nextInput (report c w (withInputs (b :: l) t)) = nextInput (report c w t) := by
  subst ht
  rfl

theorem endStalled_withInputs (ht : t.inputs.tail = l) : endStalled (withInputs (b :: l) t) = endStalled t :=
  nextInput_report_withInputs false true ht

theorem endStep_withInputs (c : Bool) (ht : t.inputs.tail = l) :
    endStep c (withInputs (b :: l) t) = endStep c t :=
  nextInput_report_withInputs (t := advancePc t) c false ht

/-- A step comes out the same when its inputs agree on `now`, on the key event where one is delivered, and on what the
instruction it runs reads. -/
theorem step_withInputs (hs : s.inputs = a :: l) (hkey : s.waiting = none ∨ b.keyEvent = a.keyEvent)
    (hnow : b.now = a.now) (huse : ∀ i, Runs s i → SameUse i a b) : step (withInputs (b :: l) s) = step s := by
  have hinput : s.input = a := by rw [State.input, hs, List.headD_cons]
  rw [← hinput] at hkey hnow
  have hdeliver : deliverKey (withInputs (b :: l) s) = withInputs (b :: l) (deliverKey s) :=
    deliverKey_withInputs hkey
  have hbefore : beforeFetch (withInputs (b :: l) s) = withInputs (b :: l) (beforeFetch s) :=
    beforeFetch_withInputs hkey hnow
  cases hf : s.fault with
  | some f => rw [step_of_latched hf, step_of_latched (s := withInputs (b :: l) s) hf]
  | none =>
    cases hw : (deliverKey s).waiting with
    | some r =>
      have hw' : (deliverKey (withInputs (b :: l) s)).waiting = some r := by rwa [hdeliver]
      rw [step_stalled hf hw, step_stalled (s := withInputs (b :: l) s) hf hw', hdeliver,
        endStalled_withInputs (by rw [deliverKey_inputs, hs, List.tail_cons])]
    | none =>
      obtain ⟨i, hr⟩ : ∃ i, Runs s i := ⟨_, hf, hw, rfl⟩
      have hr' : Runs (withInputs (b :: l) s) i := by
        obtain ⟨-, -, hi⟩ := hr
        exact ⟨hf, by rwa [hdeliver], by rwa [hbefore]⟩
      have hexec : exec i (withInputs (b :: l) (beforeFetch s)) =
          mapNext (withInputs (b :: l)) (exec i (beforeFetch s)) :=
        exec_withInputs (by rw [beforeFetch_input, hinput]; exact huse i hr)
      rw [step_of_runs hr', step_of_runs hr, hbefore, hexec]
      cases hu : exec i (beforeFetch s) with
      | fault f => rfl
      | refused r => rfl
      | next u =>
        have hinputs : u.inputs = a :: l := by
          rw [(nothingChangesOutsideTheFootprint _ _ _ hu).inputs, beforeFetch_inputs, hs]
        exact congrArg _ (endStep_withInputs _ (by rw [hinputs, List.tail_cons]))

/-- Settles O19: each replaced input is one that the step does not read, and a stalled step reads none but the key
event. -/
theorem unusedInputsDoNotMatter : Obligations.UnusedInputsDoNotMatter := by
  unfold Obligations.UnusedInputsDoNotMatter
  intro s a l hs
  refine ⟨fun r hrnd => ?_, fun ks hkeys => ?_, fun e hw => ?_, fun hstalled b hb => ?_⟩
  · refine step_withInputs hs (.inr rfl) rfl fun i hr => ?_
    cases i with
    | rnd x kk => exact absurd hr (hrnd x kk)
    | skp | sknp => rfl
    | _ => trivial
  · refine step_withInputs hs (.inr rfl) rfl fun i hr => ?_
    cases i with
    | rnd => rfl
    | skp x => exact absurd hr (hkeys x).1
    | sknp x => exact absurd hr (hkeys x).2
    | _ => trivial
  · refine step_withInputs hs (.inl hw) rfl fun i _ => ?_
    cases i with
    | rnd | skp | sknp => rfl
    | _ => trivial
  · have hstalled' : Stalled (withInputs (b :: l) s) := by
      obtain ⟨hf, hw, -⟩ := hstalled
      exact ⟨hf, hw, hb⟩
    refine (step_of_stalled hstalled').trans ?_
    rw [step_of_stalled hstalled, endStalled_withInputs (by rw [hs, List.tail_cons])]

end Sys2Proof.Machine
